-- ==== Sys2Proof/Word.lean ====
section
/-! DEFINITION. The two word types of the spec (00_scope.md R9): `u8` and `u32`. All values are unsigned. -/

namespace Sys2Proof

/-- `u8` of R9. -/
abbrev Byte := BitVec 8

/-- `u32` of R9: the address word and the data offset. -/
abbrev Word := BitVec 32

end Sys2Proof
end

