-- ==== Sys2Proof/Syntax.lean ====
section
/-! DEFINITION. The operations: what the agents issue (30_encoding.md R70) and the 16 operations of
opcode_table.json that those turn into (R80), each with the fields of its encoding (R73 to R78). -/

namespace Sys2Proof

/-- What the decoder maps a latched address to (41_decoder_dispatch.md R130). -/
inductive Region where
  | rom
  | rtc
  | sram
  | uart
  | illegal
  deriving DecidableEq, Repr

/-- The block's interface (R70): the four operations as the bus master and the host issue them. -/
inductive BusOp where
  | cs (level : BitVec 1)
  | xfer (dIn : Byte)
  | construct
  | teardown
  deriving DecidableEq, Repr

/-- One constructor per row of opcode_table.json. A data-phase operation carries the fields of the latched address
word that selects it, ignored bits included, and the data byte `d`. -/
inductive Instr where
  /-- CS_RESET, R100. -/
  | csReset
  /-- CS_ACTIVE, R101. -/
  | csActive
  /-- XFER_ADDR, R102. -/
  | xferAddr (d : Byte)
  /-- XFER_LATCH, R102 and R103. -/
  | xferLatch (d : Byte)
  /-- ROM_RD, R194: `i` is bits 28:6 and `x` bits 5:0 (R74). -/
  | romRd (i : BitVec 23) (x : BitVec 6) (d : Byte)
  /-- ROM_WR, R195. -/
  | romWr (i : BitVec 23) (x : BitVec 6) (d : Byte)
  /-- RTC_RD, R175: `x` is bits 7:2 and `b` bits 1:0 (R75). -/
  | rtcRd (x : BitVec 6) (b : BitVec 2) (d : Byte)
  /-- RTC_WR, R176. -/
  | rtcWr (x : BitVec 6) (b : BitVec 2) (d : Byte)
  /-- SRAM_RD, R155: `x` is bits 7:6 and `b` bits 5:0 (R76). -/
  | sramRd (x : BitVec 2) (b : BitVec 6) (d : Byte)
  /-- SRAM_WR, R156. -/
  | sramWr (x : BitVec 2) (b : BitVec 6) (d : Byte)
  /-- UART_RD, R210: `x` is bits 7:0 (R77). -/
  | uartRd (x : BitVec 8) (d : Byte)
  /-- UART_WR, R211. -/
  | uartWr (x : BitVec 8) (d : Byte)
  /-- ILL_RD, R141: `a` is bits 30:0 (R78). -/
  | illRd (a : BitVec 31) (d : Byte)
  /-- ILL_WR, R141. -/
  | illWr (a : BitVec 31) (d : Byte)
  /-- CONSTRUCT, R260: no bits; its configuration and answers come from the host. -/
  | construct
  /-- TEARDOWN, R262: no bits; its save answer comes from the host. -/
  | teardown
  deriving DecidableEq, Repr

end Sys2Proof
end

