-- ==== Sys2Proof/WellFormed.lean ====
section
/-! DEFINITION. Which terms of `Instr` the encoding admits. Every field of a fixed width admits every value (R81); the
one check is that an Illegal word matches no region pattern (R78). -/

namespace Sys2Proof

/-- 30_encoding.md R78, on bits 30:0 of the word: "every word with bits 30:29 = 10 or 11" and "every word with bits
30:29 = 01 whose bits 28:8 are none of 0x000000, 0x000001 and 0x000100". -/
def isIllegalAddress (a : BitVec 31) : Bool :=
  let c := a.extractLsb' 29 2
  let p := a.extractLsb' 8 21
  c == 2 || c == 3 || (c == 1 && p != 0x000000 && p != 0x000001 && p != 0x000100)

/-- The instruction has an encoding. -/
def wellFormed : Instr → Bool
  | .csReset => true
  | .csActive => true
  | .xferAddr _ => true
  | .xferLatch _ => true
  | .romRd _ _ _ => true
  | .romWr _ _ _ => true
  | .rtcRd _ _ _ => true
  | .rtcWr _ _ _ => true
  | .sramRd _ _ _ => true
  | .sramWr _ _ _ => true
  | .uartRd _ _ => true
  | .uartWr _ _ => true
  | .illRd a _ => isIllegalAddress a
  | .illWr a _ => isIllegalAddress a
  | .construct => true
  | .teardown => true

end Sys2Proof
end

