-- ==== Sys2Proof/Decode.lean ====
section
/-! DEFINITION. The address decoder (41_decoder_dispatch.md R130), the opcode map (30_encoding.md R80), the decoder of
raw bytes, and after it the encoder, written from the field tables R73 to R78 and opcode_table.json. -/

namespace Sys2Proof

/-- `BE32` of 00_scope.md R9: `{b0, b1, b2, b3}`, the first byte sent the most significant (R52). -/
def be32 (b0 b1 b2 b3 : Byte) : Word := b0 ++ b1 ++ b2 ++ b3

/-- The four bytes of a word, most significant first (R52): `a[31:24]`, `a[23:16]`, `a[15:8]`, `a[7:0]`. -/
def byte3 (a : Word) : Byte := a.extractLsb' 24 8
def byte2 (a : Word) : Byte := a.extractLsb' 16 8
def byte1 (a : Word) : Byte := a.extractLsb' 8 8
def byte0 (a : Word) : Byte := a.extractLsb' 0 8

/-- `dir` of 10_state.md R23: bit 31 of the address word, true for write. -/
def isWrite (a : Word) : Bool := a.getLsbD 31

/-- The region column of R130's table, the patterns tried in table order. -/
def regionOf (a : Word) : Region :=
  if a &&& 0x60000000#32 = 0#32 then .rom
  else if a &&& 0x7FFFFF00#32 = 0x20000000#32 then .rtc
  else if a &&& 0x7FFFFF00#32 = 0x20000100#32 then .sram
  else if a &&& 0x7FFFFF00#32 = 0x20010000#32 then .uart
  else .illegal

/-- `Decode(a)` of R130: the region and the base index. `romMask` is `ROM_MASK` (R7). The base 0 of UART and Illegal is
never used. -/
def decodeAddress (romMask : Nat) (a : Word) : Region × Nat :=
  match regionOf a with
  | .rom => (.rom, (a >>> 6).toNat &&& romMask)
  | .rtc => (.rtc, (a &&& 0x03#32).toNat)
  | .sram => (.sram, (a &&& 0x3F#32).toNat)
  | .uart => (.uart, 0)
  | .illegal => (.illegal, 0)

/-- A data-phase byte `d` under the latched word `a` (R80, R132). -/
def decodeData (a : Word) (d : Byte) : Instr :=
  match regionOf a, isWrite a with
  | .rom, false => .romRd (a.extractLsb' 6 23) (a.extractLsb' 0 6) d
  | .rom, true => .romWr (a.extractLsb' 6 23) (a.extractLsb' 0 6) d
  | .rtc, false => .rtcRd (a.extractLsb' 2 6) (a.extractLsb' 0 2) d
  | .rtc, true => .rtcWr (a.extractLsb' 2 6) (a.extractLsb' 0 2) d
  | .sram, false => .sramRd (a.extractLsb' 6 2) (a.extractLsb' 0 6) d
  | .sram, true => .sramWr (a.extractLsb' 6 2) (a.extractLsb' 0 6) d
  | .uart, false => .uartRd (a.extractLsb' 0 8) d
  | .uart, true => .uartWr (a.extractLsb' 0 8) d
  | .illegal, false => .illRd (a.extractLsb' 0 31) d
  | .illegal, true => .illWr (a.extractLsb' 0 31) d

/-- An XFER of `d` at position `pos` under the latched word `a` (R80). -/
def decodeXfer (pos : Nat) (a : Word) (d : Byte) : Instr :=
  if pos < 3 then .xferAddr d
  else if pos = 3 then .xferLatch d
  else decodeData a d

/-- A CS level (R72): `1` resets, `0` does nothing. -/
def decodeLevel (level : BitVec 1) : Instr :=
  if level = 1#1 then .csReset else .csActive

/-- The opcode map R80: the operation a port request performs, from `pos` and the latched word. Total: every request
is some operation (R81). -/
def decodeOp (pos : Nat) (a : Word) : BusOp → Instr
  | .cs level => decodeLevel level
  | .xfer d => decodeXfer pos a d
  | .construct => .construct
  | .teardown => .teardown

/-- What selects a row of opcode_table.json beside its bits (the table's "format", "match" and "mask"): the port,
and for XFER the position. -/
inductive Selector where
  | cs
  | xfer (pos : Nat)
  | construct
  | teardown
  deriving DecidableEq, Repr

/-- Why bytes are no operation. The spec gives no such case on its ports (R81); these reject byte strings that are
not the shape of a port's request. -/
inductive DecodeError where
  /-- A CS request is one byte holding one bit (R72); another bit is set. -/
  | levelIsOneBit
  /-- The number of bytes is not that of the selected format (R82). -/
  | wrongLength
  deriving DecidableEq, Repr

/-- The decoder of bytes. A CS is one byte holding the level; an address-phase XFER is its byte; a data-phase operation
is its address word, most significant byte first, then its data byte (log 12); a lifecycle operation has no bytes. -/
def decodeBytes : Selector → List Byte → Except DecodeError Instr
  | .cs, [b] => if b = 1#8 then .ok .csReset else if b = 0#8 then .ok .csActive else .error .levelIsOneBit
  | .xfer pos, [d] => if pos < 4 then .ok (decodeXfer pos 0#32 d) else .error .wrongLength
  | .xfer pos, [b0, b1, b2, b3, d] =>
    if pos < 4 then .error .wrongLength else .ok (decodeData (be32 b0 b1 b2 b3) d)
  | .construct, [] => .ok .construct
  | .teardown, [] => .ok .teardown
  | _, _ => .error .wrongLength

/-- The bits of a word as opcode_table.json numbers them (bit 0 the least significant of the first word, the data byte
`d` in bits 39:32), laid out as bytes: the address word big-endian (R52). -/
def dataBytes (w : Nat) : List Byte :=
  let a := BitVec.ofNat 32 w
  [byte3 a, byte2 a, byte1 a, byte0 a, BitVec.ofNat 8 (w / 2 ^ 32)]

/-- What the decoder reads from a table word. A word of at most 8 bits is a CS level, one of 32 bits (or 40, with the
data byte) a data-phase operation. The table gives XFER_ADDR and XFER_LATCH, CONSTRUCT and TEARDOWN no bits that tell
them apart, so no word stands for one of them (log 12). -/
def decodeTableWord (nbits w : Nat) : Option Instr :=
  if 1 ≤ nbits ∧ nbits ≤ 8 ∧ w < 2 ^ 8 then (decodeBytes .cs [BitVec.ofNat 8 w]).toOption
  else if (nbits = 32 ∨ nbits = 40) ∧ w < 2 ^ nbits then (decodeBytes (.xfer 4) (dataBytes w)).toOption
  else none

/-! ### The encoder -/

/-- The address word of a data-phase operation, field by field from R74 to R78 and opcode_table.json's "encoding". -/
def wordOf : Instr → Word
  | .romRd i x _ => 0b000#3 ++ i ++ x
  | .romWr i x _ => 0b100#3 ++ i ++ x
  | .rtcRd x b _ => 0x200000#24 ++ x ++ b
  | .rtcWr x b _ => 0xA00000#24 ++ x ++ b
  | .sramRd x b _ => 0x200001#24 ++ x ++ b
  | .sramWr x b _ => 0xA00001#24 ++ x ++ b
  | .uartRd x _ => 0x200100#24 ++ x
  | .uartWr x _ => 0xA00100#24 ++ x
  | .illRd a _ => 0#1 ++ a
  | .illWr a _ => 1#1 ++ a
  | .csReset => 0
  | .csActive => 0
  | .xferAddr _ => 0
  | .xferLatch _ => 0
  | .construct => 0
  | .teardown => 0

/-- The bytes of a data-phase operation: the word most significant byte first, then the data byte. -/
def wordBytes (a : Word) (d : Byte) : List Byte := [byte3 a, byte2 a, byte1 a, byte0 a, d]

/-- The selector under which an instruction's bytes are read. XFER_ADDR is encoded alike at each of its positions 0, 1
and 2; 0 is named here. -/
def selectorOf : Instr → Selector
  | .csReset => .cs
  | .csActive => .cs
  | .xferAddr _ => .xfer 0
  | .xferLatch _ => .xfer 3
  | .romRd _ _ _ => .xfer 4
  | .romWr _ _ _ => .xfer 4
  | .rtcRd _ _ _ => .xfer 4
  | .rtcWr _ _ _ => .xfer 4
  | .sramRd _ _ _ => .xfer 4
  | .sramWr _ _ _ => .xfer 4
  | .uartRd _ _ => .xfer 4
  | .uartWr _ _ => .xfer 4
  | .illRd _ _ => .xfer 4
  | .illWr _ _ => .xfer 4
  | .construct => .construct
  | .teardown => .teardown

/-- The bytes of an instruction. -/
def encode : Instr → List Byte
  | .csReset => [1#8]
  | .csActive => [0#8]
  | .xferAddr d => [d]
  | .xferLatch d => [d]
  | .romRd i x d => wordBytes (wordOf (.romRd i x d)) d
  | .romWr i x d => wordBytes (wordOf (.romWr i x d)) d
  | .rtcRd x b d => wordBytes (wordOf (.rtcRd x b d)) d
  | .rtcWr x b d => wordBytes (wordOf (.rtcWr x b d)) d
  | .sramRd x b d => wordBytes (wordOf (.sramRd x b d)) d
  | .sramWr x b d => wordBytes (wordOf (.sramWr x b d)) d
  | .uartRd x d => wordBytes (wordOf (.uartRd x d)) d
  | .uartWr x d => wordBytes (wordOf (.uartWr x d)) d
  | .illRd a d => wordBytes (wordOf (.illRd a d)) d
  | .illWr a d => wordBytes (wordOf (.illWr a d)) d
  | .construct => []
  | .teardown => []

end Sys2Proof
end

