-- ==== Sys2Proof/Machine/Events.lean ====
section
/-! DEFINITION. The events of the output channels (10_state.md R31, 60_exceptions.md R230). -/

namespace Sys2Proof.Machine

/-- Which font (44_rom.md R192). -/
inductive Font where
  | A
  | B
  deriving DecidableEq, Repr

/-- The `warn` channel's events. -/
inductive Warning where
  /-- Font missing, unreadable or too long (44_rom.md R191). -/
  | assetLoad (k : Font)
  /-- SRAM file missing or short (42_sram.md R151). -/
  | configLoadFallback
  /-- SRAM save failed (42_sram.md R153). -/
  | persistenceWriteFailure
  /-- An access past the end of a region (41_decoder_dispatch.md R135): the latched address and the offset. -/
  | regionOverrun (addr off : Word)
  deriving DecidableEq, Repr

/-- The `diag` channel's events, emitted only if DIAG_BUILD. -/
inductive Diagnostic where
  /-- A data-phase byte to an Illegal address (41_decoder_dispatch.md R141). -/
  | illegalAddress (addr : Word)
  /-- The classification at a latch (40_transaction_controller.md R103). -/
  | classify (addr : Word) (region : Region)
  deriving DecidableEq, Repr

/-- The event code of R230. -/
def warningCode : Warning → Nat
  | .assetLoad _ => 1
  | .configLoadFallback => 2
  | .persistenceWriteFailure => 4
  | .regionOverrun _ _ => 5

/-- The event code of R230. -/
def diagnosticCode : Diagnostic → Nat
  | .illegalAddress _ => 3
  | .classify _ _ => 6

end Sys2Proof.Machine
end

