-- ==== Sys2Proof/Machine/Memory.lean ====
section
/-! DEFINITION. The byte store of one region: `MemRead(R, i, 1)` and `MemWrite(R, i, 1, v)` of 00_scope.md R10, over a
list of (index, byte) pairs in one canonical form. -/

namespace Sys2Proof.Machine

/-- The bytes of a region by index. An index that no cell lists reads as `fill`. -/
structure Memory where
  fill : Byte
  cells : List Host.Cell
  deriving DecidableEq, Repr

/-- The canonical form: indexes strictly rising, and no cell equal to what an unlisted index reads as. -/
abbrev Memory.wf (m : Memory) : Prop :=
  m.cells.Pairwise (fun c d => c.1 < d.1) ∧ ∀ c ∈ m.cells, c.2 ≠ m.fill

/-- Every listed index lies below `n`. -/
abbrev Memory.within (m : Memory) (n : Nat) : Prop := ∀ c ∈ m.cells, c.1 < n

/-- A region in which every byte is `fill`. -/
def Memory.blank (fill : Byte) : Memory := ⟨fill, []⟩

def lookupCell (fill : Byte) (i : Nat) : List Host.Cell → Byte
  | [] => fill
  | c :: cs => if c.1 = i then c.2 else lookupCell fill i cs

def eraseCell (i : Nat) : List Host.Cell → List Host.Cell
  | [] => []
  | c :: cs => if c.1 = i then eraseCell i cs else c :: eraseCell i cs

def insertCell (i : Nat) (v : Byte) : List Host.Cell → List Host.Cell
  | [] => [(i, v)]
  | c :: cs => if i < c.1 then (i, v) :: c :: cs else c :: insertCell i v cs

/-- `MemRead(R, i, 1)`. -/
def Memory.read (m : Memory) (i : Nat) : Byte := lookupCell m.fill i m.cells

/-- `MemWrite(R, i, 1, v)`. Writing what an unlisted index reads as removes the cell. -/
def Memory.write (m : Memory) (i : Nat) (v : Byte) : Memory :=
  if v = m.fill then { m with cells := eraseCell i m.cells }
  else { m with cells := insertCell i v (eraseCell i m.cells) }

/-- Bytes written one after another from index `i` up. -/
def Memory.writeAll (m : Memory) (i : Nat) : List Byte → Memory
  | [] => m
  | v :: vs => (m.write i v).writeAll (i + 1) vs

/-- The first `n` bytes, in order. -/
def Memory.firstBytes (m : Memory) (n : Nat) : List Byte := (List.range n).map m.read

end Sys2Proof.Machine
end

