-- ==== Sys2Proof/Config.lean ====
section
/-! DEFINITION. The configuration of 00_scope.md R7 (the parameters the document does not fix), the answers the
environment may give (R8), and the free values: constants without a body, of which nothing can be proved. -/

namespace Sys2Proof

/-- The parameters of R7 that the document names and gives no value. What CONSTRUCT requires of them is
`Machine.configValid` (R261). -/
structure Config where
  /-- `ROM_SIZE` (D21). -/
  romSize : Nat
  /-- `ROM_FILL` (D20). -/
  romFill : Byte
  /-- `VERSION_STRING` (D22). -/
  versionString : List Byte
  /-- `FONT_A_OFFSET` (D23). -/
  fontAOffset : Nat
  /-- `FONT_B_OFFSET` (D23). -/
  fontBOffset : Nat
  /-- `SRAM_TEMPLATE` (D28). -/
  sramTemplate : List Byte
  /-- `LANG` (D12). -/
  lang : Byte
  /-- `BIAS_OFFSET` (D9). -/
  biasOffset : Nat
  /-- `DIAG_BUILD` (D17). -/
  diagBuild : Bool
  deriving DecidableEq, Repr, Inhabited

/-- The answer of a load: the SRAM file (R150) or a font asset (R192). `ok` carries the bytes in file order. -/
inductive LoadAnswer where
  | ok (bytes : List Byte)
  | fail
  deriving DecidableEq, Repr, Inhabited

/-- The answer of the SRAM save at teardown (R150). -/
inductive SaveAnswer where
  | ok
  | fail
  deriving DecidableEq, Repr, Inhabited

namespace Config

/-- DESIGN CHOICE (log 2), safe: the n-th draw when State scripts no answer. R8: "A model draws these inputs; it must
not fix them." R170: "Each sample is a free draw, and no law relates two samples." -/
opaque freeClock : Nat → Int
/-- DESIGN CHOICE (log 2), safe: a font load's answer (R192) that State does not script. -/
opaque freeFontLoad : Nat → LoadAnswer
/-- DESIGN CHOICE (log 2), safe: the SRAM load's answer (R150) that State does not script. -/
opaque freeSramLoad : Nat → LoadAnswer
/-- DESIGN CHOICE (log 2), safe: the SRAM save's answer (R150) that State does not script. -/
opaque freeSramSave : Nat → SaveAnswer

/-- The build's `log2 ROM_SIZE - 6`: free in the range R7 allows (log 3). -/
opaque freeRomScale : Fin 18
opaque freeRomFill : Byte
opaque freeVersionString : Vector Byte 46
opaque freeFontAOffset : Nat
opaque freeFontBOffset : Nat
opaque freeSramTemplate : Vector Byte 64
opaque freeLang : Byte
opaque freeBiasOffset : Fin 61
opaque freeDiagBuild : Bool

/-- The build's own configuration: every parameter free within the constraints of R7 and R190 (log 3). CONSTRUCT
uses it when the host has supplied no other. -/
def implementation : Config where
  romSize := 2 ^ (6 + freeRomScale.val)
  romFill := freeRomFill
  versionString := freeVersionString.toList
  fontAOffset := 46 + freeFontAOffset % (2 ^ (6 + freeRomScale.val) - 46)
  fontBOffset := 46 + freeFontBOffset % (2 ^ (6 + freeRomScale.val) - 46)
  sramTemplate := freeSramTemplate.toList
  lang := freeLang
  biasOffset := freeBiasOffset.val
  diagBuild := freeDiagBuild

end Config

end Sys2Proof
end

