-- ==== Sys2Proof/Machine/Params.lean ====
section
/-! DEFINITION. The parameters whose value the spec fixes (00_scope.md R7). The literals are normative as written and
unaudited (R4; log 21). -/

namespace Sys2Proof.Machine

/-- `IDLE_BYTE`: the byte returned during the address phase. -/
def idleByte : Byte := 0xFF#8
/-- `RTC_SIZE`. -/
def rtcSize : Nat := 4
/-- `SRAM_SIZE`. -/
def sramSize : Nat := 64
/-- `LANG_INDEX`: the SRAM byte the language code overwrites. -/
def langIndex : Nat := 0x12
/-- `EPOCH_OFFSET_2000`: seconds from 1970-01-01 to 2000-01-01 (43_rtc.md R172; log 17). -/
def epochOffset2000 : Int := 946684800
/-- `UART_CAPACITY`. -/
def uartCapacity : Nat := 256
/-- `UART_TERMINATOR`. -/
def uartTerminator : Byte := 0x0D#8
/-- `UART_STATUS`: the byte a UART read returns. -/
def uartStatus : Byte := 0x01#8
/-- `len(VERSION_STRING)` (44_rom.md R196, D22). -/
def versionLength : Nat := 46

/-- `ROM_MASK = ROM_SIZE - 1`. -/
def romMask (cfg : Config) : Nat := cfg.romSize - 1

/-- `size(region)` of 41_decoder_dispatch.md R134; UART and Illegal have no index, and no size is read for them. -/
def regionSize (cfg : Config) : Region → Nat
  | .rom => cfg.romSize
  | .rtc => rtcSize
  | .sram => sramSize
  | .uart => 0
  | .illegal => 0

end Sys2Proof.Machine
end

