-- ==== Sys2Proof/Machine/Construction.lean ====
section
/-! DEFINITION. What CONSTRUCT computes from a configuration and the environment's answers: the constraint check
(70_reset_and_hazards.md R261), the ROM image (44_rom.md R190, R191) and the SRAM contents (42_sram.md R151, R152). -/

namespace Sys2Proof.Machine

/-- `ROM_SIZE` is a power of two, 64 to 2^23 (R7, R261). -/
def romSizeValid (n : Nat) : Bool := (List.range 18).any (fun k => n == 2 ^ (6 + k))

/-- A font offset `o` meets R190: `len(VERSION_STRING) ≤ o < ROM_SIZE`. -/
def fontOffsetValid (cfg : Config) (o : Nat) : Bool :=
  decide (cfg.versionString.length ≤ o) && decide (o < cfg.romSize)

/-- The configuration meets every constraint of R261. -/
def configValid (cfg : Config) : Bool :=
  romSizeValid cfg.romSize
    && cfg.versionString.length == versionLength
    && decide (cfg.versionString.length ≤ cfg.romSize)
    && fontOffsetValid cfg cfg.fontAOffset
    && fontOffsetValid cfg cfg.fontBOffset
    && decide (cfg.biasOffset ≤ 60)
    && cfg.sramTemplate.length == sramSize

/-- `FontPlace(k, o)` of R191: a blob that was loaded and ends inside the ROM is written; anything else is a warning. -/
def fontPlace (romSize : Nat) (k : Font) (o : Nat) (r : LoadAnswer) (rom : Memory) : Memory × List Warning :=
  match r with
  | .ok blob => if o + blob.length ≤ romSize then (rom.writeAll o blob, []) else (rom, [.assetLoad k])
  | .fail => (rom, [.assetLoad k])

/-- The ROM before the fonts: `ROM_FILL` everywhere, then the version string at offset 0 (R190). -/
def romText (cfg : Config) : Memory := (Memory.blank cfg.romFill).writeAll 0 cfg.versionString

/-- `RomBuild()` of R190 with the two font answers: the image, and the warnings in order (R234). Font A is placed
before font B. -/
def romBuild (cfg : Config) (fontA fontB : LoadAnswer) : Memory × List Warning :=
  let a := fontPlace cfg.romSize .A cfg.fontAOffset fontA (romText cfg)
  let b := fontPlace cfg.romSize .B cfg.fontBOffset fontB a.1
  (b.1, a.2 ++ b.2)

/-- `SramLoadStep()` of R151: the file's first 64 bytes, or the template and a warning. -/
def sramLoad (cfg : Config) (r : LoadAnswer) : Memory × List Warning :=
  match r with
  | .ok bytes =>
    if sramSize ≤ bytes.length then ((Memory.blank 0).writeAll 0 (bytes.take sramSize), [])
    else ((Memory.blank 0).writeAll 0 cfg.sramTemplate, [.configLoadFallback])
  | .fail => ((Memory.blank 0).writeAll 0 cfg.sramTemplate, [.configLoadFallback])

/-- The SRAM after R151 and the language override R152. -/
def sramBuild (cfg : Config) (r : LoadAnswer) : Memory × List Warning :=
  ((sramLoad cfg r).1.write langIndex cfg.lang, (sramLoad cfg r).2)

end Sys2Proof.Machine
end

