-- ==== Sys2Proof/Machine/State.lean ====
section
/-! DEFINITION. The state of the machine as plain data (10_state.md R20), with the configuration (00_scope.md R7), the
output channels (R31) and the agents' inputs (R8, R13); why a step can stop; and the state after reset (R36). -/

namespace Sys2Proof.Machine

/-- `life` of R32. `absent` is the time before CONSTRUCT, when "the device does not exist" (log 5). -/
inductive Life where
  | absent
  | constructed
  | tornDown
  deriving DecidableEq, Repr

/-- No operation of the block faults: "No operation traps, halts or aborts" (60_exceptions.md R231). The spec's one
fault, the overrun, is the bit `ovf` of a next state (R232; log 9). So this type has no constructor. -/
inductive Fault where
  deriving DecidableEq, Repr

/-- Why a step has no meaning: "Neither has a step" (60_exceptions.md R232). Both are safe: the model stops where the
spec gives no step. -/
inductive Refusal where
  /-- An instruction without a meaning. No arm of `exec` raises it. Safe. -/
  | notModelled (mnemonic : String)
  /-- CS, XFER or TEARDOWN when `life ≠ Constructed` (70_reset_and_hazards.md R263). Raised by `whenLive`. Safe. -/
  | notConstructed
  /-- CONSTRUCT with a configuration that breaks a constraint (R261). Raised by `execConstruct`. Safe. -/
  | badConfiguration
  deriving DecidableEq, Repr

/-- What the host answers (00_scope.md R8) and supplies (70_reset_and_hazards.md R264), oldest first. A draw for which
no answer stands here is a free value of `Config`, taken at `drawn`, which then advances (log 2). -/
structure Environment where
  configs : List Config
  clock : List Int
  fontLoads : List LoadAnswer
  sramLoads : List LoadAnswer
  sramSaves : List SaveAnswer
  drawn : Nat
  deriving DecidableEq, Repr

/-- The machine. The first nine fields are the state of R20. -/
structure State where
  /-- R21: the transfer count; never wraps. -/
  pos : Nat
  /-- R22: the latched address. -/
  addr : Word
  /-- R24: the data offset. -/
  off : Word
  /-- R26: the RTC register, byte 0 most significant. -/
  rtc : Memory
  /-- R27: the configuration store. -/
  sram : Memory
  /-- R28: the boot image. -/
  rom : Memory
  /-- R29: the UART line buffer. -/
  ubuf : List Byte
  /-- R30: the sticky overrun fault flag. -/
  ovf : Bool
  /-- R32: whether the device is live. -/
  life : Life
  /-- R7: the parameters the device was constructed with. -/
  cfg : Config
  /-- R31: one record per UART flush. -/
  log : List (List Byte)
  /-- R31: warnings and faults. -/
  warn : List Warning
  /-- R31: diagnostic-build events. -/
  diag : List Diagnostic
  /-- R70: the byte the latest XFER returned (log 6). -/
  dOut : Option Byte
  /-- R150: the bytes last saved to the backing file (log 8). -/
  file : Option (List Byte)
  /-- R13: the operations issued and not yet run, oldest first (log 1). -/
  inbox : List BusOp
  /-- R8: the draws to come. -/
  env : Environment
  deriving DecidableEq, Repr

/-- An environment that scripts nothing: every draw is free. -/
def Environment.free (drawn : Nat) : Environment := ⟨[], [], [], [], [], drawn⟩

/-- Before CONSTRUCT: no device, nothing emitted, nothing issued (log 5). -/
def State.unborn : State where
  pos := 0
  addr := 0
  off := 0
  rtc := Memory.blank 0
  sram := Memory.blank 0
  rom := Memory.blank 0
  ubuf := []
  ovf := false
  life := .absent
  cfg := Config.implementation
  log := []
  warn := []
  diag := []
  dOut := none
  file := none
  inbox := []
  env := Environment.free 0

/-- The machine right after reset: R36, the state at the end of CONSTRUCT, for the build's own configuration and free
answers of the two font loads and the SRAM load (logs 3 and 4). -/
def State.reset : State where
  pos := 0
  addr := 0
  off := 0
  rtc := Memory.blank 0
  sram := (sramBuild Config.implementation (Config.freeSramLoad 2)).1
  rom := (romBuild Config.implementation (Config.freeFontLoad 0) (Config.freeFontLoad 1)).1
  ubuf := []
  ovf := false
  life := .constructed
  cfg := Config.implementation
  log := []
  warn := (romBuild Config.implementation (Config.freeFontLoad 0) (Config.freeFontLoad 1)).2
    ++ (sramBuild Config.implementation (Config.freeSramLoad 2)).2
  diag := []
  dOut := none
  file := none
  inbox := []
  env := Environment.free 3

end Sys2Proof.Machine
end

