-- ==== Sys2Proof/Machine/Operands.lean ====
section
/-! DEFINITION. Operand assembly (30_encoding.md R79), the index of a data-phase byte (41_decoder_dispatch.md R134), and
the arithmetic of the RTC (43_rtc.md R171, R173). -/

namespace Sys2Proof.Machine

/-- ROM base = `addr[28:6] & ROM_MASK` (R79). -/
def romBase (cfg : Config) (i : BitVec 23) : Nat := i.toNat &&& romMask cfg

/-- RTC base = `addr[1:0]` (R79). -/
def rtcBase (b : BitVec 2) : Nat := b.toNat

/-- SRAM base = `addr[5:0]` (R79). -/
def sramBase (b : BitVec 6) : Nat := b.toNat

/-- The index a data-phase byte reaches: the exact sum `base + off`, reduced modulo nothing (R79, R134). -/
def State.index (s : State) (base : Nat) : Nat := base + s.off.toNat

/-- Byte `i` of the template, for the bias. A valid configuration's template has every byte that is read (R261); the
0 past its end is never reached (log 15). -/
def templateByte (cfg : Config) (i : Nat) : Byte := cfg.sramTemplate.getD i 0#8

/-- `bias` of R173: the big-endian reading of four bytes of the template, not of the live store (log 18). -/
def rtcBias (cfg : Config) : Word :=
  be32 (templateByte cfg cfg.biasOffset) (templateByte cfg (cfg.biasOffset + 1))
    (templateByte cfg (cfg.biasOffset + 2)) (templateByte cfg (cfg.biasOffset + 3))

/-- `v` of R171: `(T - EPOCH_OFFSET_2000 - bias) mod 2^32`, exact integers then reduced. -/
def rtcValue (cfg : Config) (t : Int) : Word :=
  BitVec.ofInt 32 (t - epochOffset2000 - ((rtcBias cfg).toNat : Int))

/-- The four bytes of R171, written to `rtc[0]` to `rtc[3]`, most significant first. -/
def rtcBytes (v : Word) (rtc : Memory) : Memory :=
  (((rtc.write 0 (byte3 v)).write 1 (byte2 v)).write 2 (byte1 v)).write 3 (byte0 v)

end Sys2Proof.Machine
end

