-- ==== Sys2Proof/Machine/Flags.lean ====
section
/-! DEFINITION. The block's two flag-like values: `dir`, which is not stored (10_state.md R23), and `ovf` (R30). -/

namespace Sys2Proof.Machine

/-- `dir`: bit 31 of `addr`, true for write (R23). -/
def State.dir (s : State) : Bool := isWrite s.addr

/-- `ovf <- true` (R135). Only CONSTRUCT clears it (R30). -/
def State.setOvf (s : State) : State := { s with ovf := true }

end Sys2Proof.Machine
end

