-- ==== Sys2Proof/Machine/Ops.lean ====
section
/-! DEFINITION. The operations the meanings share: named state and `emit` (00_scope.md R10), region bytes, the draws
(R8), the address phase, the shape of a data-phase byte, and the overrun fault action, which is all this block has in
place of taking an exception (41_decoder_dispatch.md R135; there is no trap entry and no return, R235, R236). -/

namespace Sys2Proof.Machine

/-! ### Named state -/

def State.setPos (s : State) (n : Nat) : State := { s with pos := n }
def State.setAddr (s : State) (a : Word) : State := { s with addr := a }
def State.setOff (s : State) (o : Word) : State := { s with off := o }
def State.setRtc (s : State) (m : Memory) : State := { s with rtc := m }
def State.setSram (s : State) (m : Memory) : State := { s with sram := m }
def State.setRom (s : State) (m : Memory) : State := { s with rom := m }
def State.setUbuf (s : State) (b : List Byte) : State := { s with ubuf := b }
def State.setLife (s : State) (l : Life) : State := { s with life := l }
def State.setFile (s : State) (f : Option (List Byte)) : State := { s with file := f }
def State.setInbox (s : State) (ops : List BusOp) : State := { s with inbox := ops }
def State.setEnv (s : State) (e : Environment) : State := { s with env := e }

/-- `d_out <- v` (R10). -/
def State.setDOut (s : State) (v : Byte) : State := { s with dOut := some v }

/-- `emit log(record)` (R10, R31): the channel is append-only. -/
def State.emitLog (s : State) (record : List Byte) : State := { s with log := s.log ++ [record] }

/-- `emit warn(events)` in order. -/
def State.emitWarn (s : State) (events : List Warning) : State := { s with warn := s.warn ++ events }

/-- What `if DIAG_BUILD then emit diag(event)` emits (R31: the channel is empty when DIAG_BUILD is false). -/
def diagnosticsOf (cfg : Config) (event : Diagnostic) : List Diagnostic := if cfg.diagBuild then [event] else []

/-- `if DIAG_BUILD then emit diag(event)`. -/
def State.emitDiag (s : State) (event : Diagnostic) : State :=
  { s with diag := s.diag ++ diagnosticsOf s.cfg event }

/-! ### Region bytes -/

/-- `MemRead(R, i, 1)`; UART and Illegal hold no bytes (20_memory.md R51), and no operation reads one there. -/
def State.readByte (s : State) (r : Region) (i : Nat) : Byte :=
  match r with
  | .rom => s.rom.read i
  | .rtc => s.rtc.read i
  | .sram => s.sram.read i
  | .uart => 0
  | .illegal => 0

/-! ### Draws -/

/-- The configuration the host supplies to CONSTRUCT: the next it has given, else the build's own (log 3). -/
def Environment.takeConfig (e : Environment) : Config × Environment :=
  match e.configs with
  | c :: cs => (c, { e with configs := cs })
  | [] => (Config.implementation, e)

/-- `HostClock()` (R10, R170). -/
def Environment.takeClock (e : Environment) : Int × Environment :=
  match e.clock with
  | t :: ts => (t, { e with clock := ts })
  | [] => (Config.freeClock e.drawn, { e with drawn := e.drawn + 1 })

/-- `FontLoad(k)` (R192). -/
def Environment.takeFontLoad (e : Environment) : LoadAnswer × Environment :=
  match e.fontLoads with
  | r :: rs => (r, { e with fontLoads := rs })
  | [] => (Config.freeFontLoad e.drawn, { e with drawn := e.drawn + 1 })

/-- `SramLoad()` (R150). -/
def Environment.takeSramLoad (e : Environment) : LoadAnswer × Environment :=
  match e.sramLoads with
  | r :: rs => (r, { e with sramLoads := rs })
  | [] => (Config.freeSramLoad e.drawn, { e with drawn := e.drawn + 1 })

/-- The answer of `SramSave(bytes)` (R150). -/
def Environment.takeSramSave (e : Environment) : SaveAnswer × Environment :=
  match e.sramSaves with
  | r :: rs => (r, { e with sramSaves := rs })
  | [] => (Config.freeSramSave e.drawn, { e with drawn := e.drawn + 1 })

/-! ### The lifetime guard -/

/-- `require life = Constructed`: otherwise the operation is refused and has no step (R263). -/
def State.whenLive (s : State) (f : State → State) : Host.Outcome State Fault Refusal :=
  if s.life = .constructed then .next (f s) else .refused .notConstructed

/-! ### The address phase -/

/-- `pos <- pos + 1` (40_transaction_controller.md R106). -/
def State.advance (s : State) : State := s.setPos (s.pos + 1)

/-- `AddressByte(d_in)` of R102, but for the latch: shift the byte in, return the idle byte, clear `off`. -/
def State.addressByte (s : State) (d : Byte) : State :=
  ((s.setAddr ((s.addr <<< 8) ||| d.setWidth 32)).setDOut idleByte).setOff 0

/-- `RtcRefresh(T)` of 43_rtc.md R171. -/
def State.rtcRefresh (s : State) (t : Int) : State := s.setRtc (rtcBytes (rtcValue s.cfg t) s.rtc)

/-- `Latch()` of R103: one draw of the host clock, the refresh, and in a diagnostic build the classification. -/
def State.latch (s : State) : State :=
  let t := s.env.takeClock
  ((s.setEnv t.2).rtcRefresh t.1).emitDiag (.classify s.addr (regionOf s.addr))

/-! ### The data phase -/

/-- The end of `DataByte` and of XFER: `off <- off +32 1` (R105), then `pos <- pos + 1` (R106). -/
def State.endData (s : State) : State := (s.setOff (s.off + 1)).advance

/-- `raise RegionOverrun(addr, off)` of R135: the fault bit, the warning of code 5, and no region access. -/
def State.raiseOverrun (s : State) (d : Byte) : State :=
  (s.setOvf.emitWarn [.regionOverrun s.addr s.off]).setDOut d

/-- The bound check of R134 for an access to a region of `size` bytes: `access` at the index, or the overrun. -/
def State.bounded (s : State) (size base : Nat) (d : Byte) (access : Nat → State → State) : State :=
  if s.index base < size then access (s.index base) s else s.raiseOverrun d

end Sys2Proof.Machine
end

