-- ==== Sys2Proof/Machine/AddressPhase.lean ====
section
/-! DEFINITION. XFER_ADDR and XFER_LATCH (40_transaction_controller.md R102, R103, R106). -/

namespace Sys2Proof.Machine

/-- XFER at `pos` 0, 1 or 2 (R102). -/
def execXferAddr (d : Byte) (s : State) : Host.Outcome State Fault Refusal :=
  s.whenLive fun s => (s.addressByte d).advance

/-- XFER at `pos` 3 (R102, R103): the latch sees the complete address. -/
def execXferLatch (d : Byte) (s : State) : Host.Outcome State Fault Refusal :=
  s.whenLive fun s => ((s.addressByte d).latch).advance

end Sys2Proof.Machine
end

