-- ==== Sys2Proof/Machine/ChipSelect.lean ====
section
/-! DEFINITION. CS_RESET and CS_ACTIVE (40_transaction_controller.md R100, R101). -/

namespace Sys2Proof.Machine

/-- CS(1), R100: "Every `CS(1)` resets `pos`". -/
def execCsReset (s : State) : Host.Outcome State Fault Refusal := s.whenLive fun s => s.setPos 0

/-- CS(0), R101: no state change. -/
def execCsActive (s : State) : Host.Outcome State Fault Refusal := s.whenLive fun s => s

end Sys2Proof.Machine
end

