-- ==== Sys2Proof/Machine/Illegal.lean ====
section
/-! DEFINITION. ILL_RD and ILL_WR (41_decoder_dispatch.md R141). -/

namespace Sys2Proof.Machine

/-- `ILL(d_in)` of R141: the byte passes through; in a diagnostic build one `IllegalAddress` event. -/
def State.passThrough (s : State) (d : Byte) : State := (s.setDOut d).emitDiag (.illegalAddress s.addr)

/-- ILL_RD, R141. -/
def execIllRd (_a : BitVec 31) (d : Byte) (s : State) : Host.Outcome State Fault Refusal :=
  s.whenLive fun s => (s.passThrough d).endData

/-- ILL_WR, R141. -/
def execIllWr (_a : BitVec 31) (d : Byte) (s : State) : Host.Outcome State Fault Refusal :=
  s.whenLive fun s => (s.passThrough d).endData

end Sys2Proof.Machine
end

