-- ==== Sys2Proof/Machine/Lifecycle.lean ====
section
/-! DEFINITION. CONSTRUCT and TEARDOWN (70_reset_and_hazards.md R260 to R263). -/

namespace Sys2Proof.Machine

/-- The body of CONSTRUCT (R260) for a configuration: draw the font answers A then B and the SRAM answer in the order of
R260, build, emit the warnings in the order of R234, and set every item of R20. The channels keep what they hold
(log 7); the file, the inbox and what the host has still to answer are not the device's. -/
def State.construct (s : State) (cfg : Config) (e : Environment) : State :=
  let fontA := e.takeFontLoad
  let fontB := fontA.2.takeFontLoad
  let load := fontB.2.takeSramLoad
  let rom := romBuild cfg fontA.1 fontB.1
  let sram := sramBuild cfg load.1
  { s with
    pos := 0
    addr := 0
    off := 0
    rtc := Memory.blank 0
    sram := sram.1
    rom := rom.1
    ubuf := []
    ovf := false
    life := .constructed
    cfg := cfg
    warn := s.warn ++ (rom.2 ++ sram.2)
    dOut := none
    env := load.2 }

/-- CONSTRUCT, R260; refused by R261. It has no `require` on `life`: it "creates a new device" (R263; log 10). -/
def execConstruct (s : State) : Host.Outcome State Fault Refusal :=
  let c := s.env.takeConfig
  if configValid c.1 then .next (s.construct c.1 c.2) else .refused .badConfiguration

/-- `SramSaveStep()` of 42_sram.md R153: all 64 bytes, once; a failed save is a warning and changes no file. -/
def State.sramSave (s : State) : State :=
  let r := s.env.takeSramSave
  match r.1 with
  | .ok => (s.setEnv r.2).setFile (some (s.sram.firstBytes sramSize))
  | .fail => (s.setEnv r.2).emitWarn [.persistenceWriteFailure]

/-- TEARDOWN, R262: save, discard the unflushed UART bytes, end the life. -/
def execTeardown (s : State) : Host.Outcome State Fault Refusal :=
  s.whenLive fun s => (s.sramSave.setUbuf []).setLife .tornDown

end Sys2Proof.Machine
end

