-- ==== Sys2Proof/Machine/Rom.lean ====
section
/-! DEFINITION. ROM_RD and ROM_WR (44_rom.md R194, R195). -/

namespace Sys2Proof.Machine

/-- ROM_RD, R194. -/
def execRomRd (i : BitVec 23) (_x : BitVec 6) (d : Byte) (s : State) : Host.Outcome State Fault Refusal :=
  s.whenLive fun s =>
    (s.bounded (regionSize s.cfg .rom) (romBase s.cfg i) d fun k t => t.setDOut (t.readByte .rom k)).endData

/-- ROM_WR, R195: a no-op on the ROM, after the bound check; the byte comes back unchanged (R133). -/
def execRomWr (i : BitVec 23) (_x : BitVec 6) (d : Byte) (s : State) : Host.Outcome State Fault Refusal :=
  s.whenLive fun s =>
    (s.bounded (regionSize s.cfg .rom) (romBase s.cfg i) d fun _ t => t.setDOut d).endData

end Sys2Proof.Machine
end

