-- ==== Sys2Proof/Machine/Rtc.lean ====
section
/-! DEFINITION. RTC_RD and RTC_WR (43_rtc.md R175, R176). -/

namespace Sys2Proof.Machine

/-- RTC_RD, R175. -/
def execRtcRd (_x : BitVec 6) (b : BitVec 2) (d : Byte) (s : State) : Host.Outcome State Fault Refusal :=
  s.whenLive fun s =>
    (s.bounded (regionSize s.cfg .rtc) (rtcBase b) d fun k t => t.setDOut (t.readByte .rtc k)).endData

/-- RTC_WR, R176. -/
def execRtcWr (_x : BitVec 6) (b : BitVec 2) (d : Byte) (s : State) : Host.Outcome State Fault Refusal :=
  s.whenLive fun s =>
    (s.bounded (regionSize s.cfg .rtc) (rtcBase b) d fun k t => (t.setRtc (t.rtc.write k d)).setDOut d).endData

end Sys2Proof.Machine
end

