-- ==== Sys2Proof/Machine/Sram.lean ====
section
/-! DEFINITION. SRAM_RD and SRAM_WR (42_sram.md R155, R156). -/

namespace Sys2Proof.Machine

/-- SRAM_RD, R155. -/
def execSramRd (_x : BitVec 2) (b : BitVec 6) (d : Byte) (s : State) : Host.Outcome State Fault Refusal :=
  s.whenLive fun s =>
    (s.bounded (regionSize s.cfg .sram) (sramBase b) d fun k t => t.setDOut (t.readByte .sram k)).endData

/-- SRAM_WR, R156. -/
def execSramWr (_x : BitVec 2) (b : BitVec 6) (d : Byte) (s : State) : Host.Outcome State Fault Refusal :=
  s.whenLive fun s =>
    (s.bounded (regionSize s.cfg .sram) (sramBase b) d fun k t => (t.setSram (t.sram.write k d)).setDOut d).endData

end Sys2Proof.Machine
end

