-- ==== Sys2Proof/Machine/Uart.lean ====
section
/-! DEFINITION. UART_RD and UART_WR (45_uart.md R210, R211). -/

namespace Sys2Proof.Machine

/-- The line buffer after the byte `d` (R211): append; on the terminator emit all but it and clear; else at the capacity
emit all and clear. -/
def State.uartPut (s : State) (d : Byte) : State :=
  let line := s.ubuf ++ [d]
  if d = uartTerminator then (s.emitLog (line.take (line.length - 1))).setUbuf []
  else if line.length = uartCapacity then (s.emitLog line).setUbuf []
  else s.setUbuf line

/-- UART_RD, R210: the fixed status byte; no bound check (R134). -/
def execUartRd (_x : BitVec 8) (_d : Byte) (s : State) : Host.Outcome State Fault Refusal :=
  s.whenLive fun s => (s.setDOut uartStatus).endData

/-- UART_WR, R211. -/
def execUartWr (_x : BitVec 8) (d : Byte) (s : State) : Host.Outcome State Fault Refusal :=
  s.whenLive fun s => ((s.uartPut d).setDOut d).endData

end Sys2Proof.Machine
end

