-- ==== Sys2Proof/Machine/Dispatch.lean ====
section
/-! DEFINITION. One arm per operation of opcode_table.json. -/

namespace Sys2Proof.Machine

def exec (i : Instr) (s : State) : Host.Outcome State Fault Refusal :=
  match i with
  | .csReset => Sys2Proof.Machine.execCsReset s
  | .csActive => Sys2Proof.Machine.execCsActive s
  | .xferAddr d => Sys2Proof.Machine.execXferAddr d s
  | .xferLatch d => Sys2Proof.Machine.execXferLatch d s
  | .romRd k x d => Sys2Proof.Machine.execRomRd k x d s
  | .romWr k x d => Sys2Proof.Machine.execRomWr k x d s
  | .rtcRd x b d => Sys2Proof.Machine.execRtcRd x b d s
  | .rtcWr x b d => Sys2Proof.Machine.execRtcWr x b d s
  | .sramRd x b d => Sys2Proof.Machine.execSramRd x b d s
  | .sramWr x b d => Sys2Proof.Machine.execSramWr x b d s
  | .uartRd x d => Sys2Proof.Machine.execUartRd x d s
  | .uartWr x d => Sys2Proof.Machine.execUartWr x d s
  | .illRd a d => Sys2Proof.Machine.execIllRd a d s
  | .illWr a d => Sys2Proof.Machine.execIllWr a d s
  | .construct => Sys2Proof.Machine.execConstruct s
  | .teardown => Sys2Proof.Machine.execTeardown s

end Sys2Proof.Machine
end

