-- ==== Sys2Proof/Machine/BusProgram.lean ====
section
/-! DEFINITION. The bus-program notation of 30_encoding.md R83 as the operations it expands to, and the issuing of
operations by the bus master (00_scope.md R13). -/

namespace Sys2Proof.Machine

/-- `CS 1` and `CS 0`. -/
def cs1 : List BusOp := [.cs 1#1]
def cs0 : List BusOp := [.cs 0#1]

/-- `WR b0, b1, ...`: one XFER a byte. -/
def wr (bytes : List Byte) : List BusOp := bytes.map .xfer

/-- `ADDR a`: the word's bytes, most significant first. -/
def addrPhase (a : Word) : List BusOp := wr [byte3 a, byte2 a, byte1 a, byte0 a]

/-- `RD n`: n statements `XFER 0x00`. -/
def rd (n : Nat) : List BusOp := wr (List.replicate n 0x00#8)

/-- `TXN a: ...`: `CS 1`, then `ADDR a`, then the statements after the colon. -/
def txn (a : Word) (ops : List BusOp) : List BusOp := cs1 ++ (addrPhase a ++ ops)

/-- The bus master and the host issue operations: they queue after those already issued. -/
def State.issue (s : State) (ops : List BusOp) : State := s.setInbox (s.inbox ++ ops)

end Sys2Proof.Machine
end

