-- ==== Sys2Proof/Machine/Fetch.lean ====
section
/-! DEFINITION. How the next operation reaches the block. There is no fetch (00_scope.md R2): the agents drive it. -/

namespace Sys2Proof.Machine

/-- The operation the block runs next, under R80, and the state from which it runs: the oldest issued operation has left
the inbox. None when nothing is issued. -/
def State.nextInstr (s : State) : Option (Instr × State) :=
  match s.inbox with
  | [] => none
  | op :: rest => some (decodeOp s.pos s.addr op, s.setInbox rest)

/-- A table word as the next operation (log 13). A CS word is issued as its level. A data-phase word stands in `addr` as
after its address phase, `pos` is in the data phase, and its data byte is issued as an XFER. -/
def State.placeWord (s : State) (nbits w : Nat) : State :=
  if nbits ≤ 8 then s.setInbox (.cs (BitVec.ofNat 1 w) :: s.inbox)
  else ((s.setPos (max s.pos 4)).setAddr (BitVec.ofNat 32 w)).setInbox (.xfer (BitVec.ofNat 8 (w / 2 ^ 32)) :: s.inbox)

end Sys2Proof.Machine
end

