-- ==== Sys2Proof/Machine/Step.lean ====
section
/-! DEFINITION. One step: "Every bus or lifecycle operation is one atomic step of the block" (00_scope.md R11). -/

namespace Sys2Proof.Machine

/-- Run the oldest issued operation. With none issued nothing changes: the block is "driven entirely by the external
bus master" (R13; log 1). -/
def step (s : State) : Host.Outcome State Fault Refusal :=
  match s.nextInstr with
  | none => .next s
  | some (i, t) => exec i t

/-- The state in which the operation of a table word runs next (log 13). -/
def State.withFetchWord (s : State) (nbits w : Nat) : State := s.placeWord nbits w

end Sys2Proof.Machine
end

