-- ==== Sys2Proof/Machine/Snapshot.lean ====
section
/-! DEFINITION. The save-state of 10_state.md R20 and 20_memory.md R62: "A save-state of the device is a copy of exactly
these items", taken by the host between two operations (log 20). -/

namespace Sys2Proof.Machine

/-- Exactly the nine items of R20's table. -/
structure Snapshot where
  pos : Nat
  addr : Word
  off : Word
  rtc : Memory
  sram : Memory
  rom : Memory
  ubuf : List Byte
  ovf : Bool
  life : Life
  deriving DecidableEq, Repr

/-- Take a save-state. -/
def State.snapshot (s : State) : Snapshot :=
  ⟨s.pos, s.addr, s.off, s.rtc, s.sram, s.rom, s.ubuf, s.ovf, s.life⟩

/-- Load a save-state into a device of the same configuration: its items replace the device's, and nothing else does. -/
def State.restore (s : State) (p : Snapshot) : State :=
  { s with
    pos := p.pos, addr := p.addr, off := p.off, rtc := p.rtc, sram := p.sram, rom := p.rom, ubuf := p.ubuf,
    ovf := p.ovf, life := p.life }

end Sys2Proof.Machine
end

