-- ==== Sys2Proof/Safety.lean ====
section
/-! DEFINITION. What counts as a safe run, the invariant of the machine, and the terms the statements use. -/

namespace Sys2Proof.Machine

/-- 10_state.md R30: "a claim about a run takes "`ovf` = false at the end" as a premise". -/
abbrev State.noFault (s : State) : Prop := s.ovf = false

/-- The invariant that every step keeps: the configuration meets R261; each store is in canonical form, reads as its
background where nothing is listed, and lists no byte outside its region (R26 to R28); the line buffer never holds its
capacity between operations (R29). -/
structure State.Inv (s : State) : Prop where
  cfgValid : configValid s.cfg = true
  romWf : s.rom.wf
  romFill : s.rom.fill = s.cfg.romFill
  romWithin : s.rom.within s.cfg.romSize
  sramWf : s.sram.wf
  sramFill : s.sram.fill = 0#8
  sramWithin : s.sram.within sramSize
  rtcWf : s.rtc.wf
  rtcFill : s.rtc.fill = 0#8
  rtcWithin : s.rtc.within rtcSize
  ubufShort : s.ubuf.length ≤ 255

/-- `n` steps of the machine, stopping at the first refusal. -/
def run (n : Nat) (s : State) : Host.Outcome State Fault Refusal := Host.Core.run Sys2Proof.core n s

/-- An outcome with its next state, if it has one, seen through `f`. -/
def mapNext (f : State → State) : Host.Outcome State Fault Refusal → Host.Outcome State Fault Refusal
  | .next s => .next (f s)
  | .fault r => .fault r
  | .refused r => .refused r

/-- The state with `pos` stored in the saturating counter that 10_state.md R21 allows: 0, 1, 2, 3, "4 or more". -/
def State.saturated (s : State) : State := s.setPos (min s.pos 4)

/-- The state with nothing emitted yet. -/
def State.withoutChannels (s : State) : State := { s with log := [], warn := [], diag := [] }

/-- `t` with what `s` had emitted put before what `t` has emitted. -/
def State.emittedBefore (s t : State) : State :=
  { t with log := s.log ++ t.log, warn := s.warn ++ t.warn, diag := s.diag ++ t.diag }

/-- The fault action of 41_decoder_dispatch.md R135 as seen from outside: the XFER completes, `ovf` is set, one warning of
code 5 is emitted, and no region byte, buffer, record or configuration changes. It says nothing of the byte returned,
because "no claim may rest on what an overrunning access returns". -/
def Overruns (i : Instr) (s : State) : Prop :=
  ∃ t, exec i s = .next t ∧ t.ovf = true ∧ t.warn = s.warn ++ [.regionOverrun s.addr s.off] ∧
    t.off = s.off + 1 ∧ t.pos = s.pos + 1 ∧ t.addr = s.addr ∧ t.rom = s.rom ∧ t.rtc = s.rtc ∧ t.sram = s.sram ∧
    t.ubuf = s.ubuf ∧ t.log = s.log ∧ t.diag = s.diag ∧ t.life = s.life ∧ t.cfg = s.cfg ∧ t.file = s.file ∧
    t.inbox = s.inbox ∧ t.env = s.env

/-- The byte a font answer puts at ROM index `j`, if it puts one (44_rom.md R191): the blob starts at `o` and counts only
if it ends inside the ROM. -/
def fontByte (romSize o : Nat) (r : LoadAnswer) (j : Nat) : Option Byte :=
  match r with
  | .ok blob => if o + blob.length ≤ romSize ∧ o ≤ j then blob[j - o]? else none
  | .fail => none

/-- A font answer is not placed and is a warning (44_rom.md R191): a failure, or a blob past the end of the ROM. -/
def fontFails (romSize o : Nat) (r : LoadAnswer) : Bool :=
  match r with
  | .ok blob => decide (romSize < o + blob.length)
  | .fail => true

/-- The 64 bytes the SRAM load yields (42_sram.md R151): the file's first 64, or the template's. -/
def sramSource (c : Config) (r : LoadAnswer) : List Byte :=
  match r with
  | .ok bytes => if 64 ≤ bytes.length then bytes.take 64 else c.sramTemplate
  | .fail => c.sramTemplate

/-- The SRAM load falls back to the template (42_sram.md R151). -/
def sramFallsBack (r : LoadAnswer) : Bool :=
  match r with
  | .ok bytes => decide (bytes.length < 64)
  | .fail => true

end Sys2Proof.Machine
end

