-- ==== Sys2Proof/Certificates/Slice0/Obligations.lean ====
section
/-! DEFINITION. The statements for the provers. A next state is written as the whole record where the operation's effect
is a record update: every field not named is then unchanged, which is the operation's frame. -/

open Sys2Proof Sys2Proof.Machine

/-! ### Reset and construction -/

/-- 10_state.md R36: what the state holds at the end of CONSTRUCT, the SRAM and the ROM byte by byte: `sram` the loaded
file or the template, then LANG; `rom` as 44_rom.md R190 fills it. The rest is the model's choice and not in R36: that CONSTRUCT completes whatever the life is,
a live device's included (log 10), and that it leaves the log and the diagnostics as they are (log 7), the file (log 8)
and what is still issued (log 1). -/
def Obligations.ConstructLeavesTheResetTable : Prop :=
  ∀ (s : State) (c : Config) (e : Environment), s.env.takeConfig = (c, e) → configValid c = true →
    ∃ t, exec .construct s = .next t ∧
      t.pos = 0 ∧ t.addr = 0#32 ∧ t.off = 0#32 ∧ (∀ j, t.rtc.read j = 0#8) ∧ t.ubuf = [] ∧ t.ovf = false ∧
      t.life = .constructed ∧ t.cfg = c ∧
      (∀ j, t.rom.read j =
        ((fontByte c.romSize c.fontBOffset e.takeFontLoad.2.takeFontLoad.1 j).getD
          ((fontByte c.romSize c.fontAOffset e.takeFontLoad.1 j).getD (c.versionString.getD j c.romFill)))) ∧
      (∀ k, k < 64 → some (t.sram.read k) =
        if k = 0x12 then some c.lang
        else (sramSource c e.takeFontLoad.2.takeFontLoad.2.takeSramLoad.1)[k]?) ∧
      t.log = s.log ∧ t.diag = s.diag ∧ t.file = s.file ∧ t.inbox = s.inbox

/-- 44_rom.md R190 and R191: every byte of the ROM after construction, for every pair of font answers: font B over font
A over the version string over ROM_FILL; and the ROM's warnings, A before B (R234). -/
def Obligations.RomImageByteByByte : Prop :=
  ∀ (c : Config) (fontA fontB : LoadAnswer), configValid c = true →
    (∀ j, (romBuild c fontA fontB).1.read j =
      ((fontByte c.romSize c.fontBOffset fontB j).getD
        ((fontByte c.romSize c.fontAOffset fontA j).getD (c.versionString.getD j c.romFill)))) ∧
    (romBuild c fontA fontB).2 =
      (if fontFails c.romSize c.fontAOffset fontA then [.assetLoad .A] else []) ++
      (if fontFails c.romSize c.fontBOffset fontB then [.assetLoad .B] else [])

/-- 42_sram.md R151 and R152: every byte of the SRAM after construction, for every answer of the load. -/
def Obligations.SramContentsByteByByte : Prop :=
  ∀ (c : Config) (r : LoadAnswer), configValid c = true →
    (∀ k, k < 64 → (sramSource c r)[k]? = some ((sramLoad c r).1.read k)) ∧
    (∀ k, (sramBuild c r).1.read k = if k = 0x12 then c.lang else (sramLoad c r).1.read k) ∧
    (sramBuild c r).2 = if sramFallsBack r then [.configLoadFallback] else []

/-- 60_exceptions.md R234, first item: the warnings of CONSTRUCT and their order. -/
def Obligations.ConstructWarnsInOrder : Prop :=
  ∀ (s t : State) (c : Config) (e : Environment), s.env.takeConfig = (c, e) → exec .construct s = .next t →
    t.warn = s.warn ++
      ((if fontFails c.romSize c.fontAOffset e.takeFontLoad.1 then [.assetLoad .A] else []) ++
       (if fontFails c.romSize c.fontBOffset e.takeFontLoad.2.takeFontLoad.1 then [.assetLoad .B] else []) ++
       (if sramFallsBack e.takeFontLoad.2.takeFontLoad.2.takeSramLoad.1 then [.configLoadFallback] else []))

/-- 70_reset_and_hazards.md R261: exactly the configurations that break a constraint are refused, with no step. -/
def Obligations.ConstructRefusesExactlyBadConfigurations : Prop :=
  ∀ (s : State) (c : Config) (e : Environment), s.env.takeConfig = (c, e) →
    (exec .construct s = .refused .badConfiguration ↔
      (¬ (∃ k, c.romSize = 2 ^ k) ∨ c.romSize < 64 ∨ 2 ^ 23 < c.romSize) ∨
      (c.versionString.length ≠ 46 ∨ c.romSize < c.versionString.length) ∨
      (c.fontAOffset < c.versionString.length ∨ c.romSize ≤ c.fontAOffset) ∨
      (c.fontBOffset < c.versionString.length ∨ c.romSize ≤ c.fontBOffset) ∨
      60 < c.biasOffset ∨ c.sramTemplate.length ≠ 64)

/-- The reset state is what CONSTRUCT makes of a device that does not exist yet, with the build's own configuration and
free answers: the model's choice (logs 3 and 4), on 70_reset_and_hazards.md R260. -/
def Obligations.ResetIsConstructFromNothing : Prop :=
  exec .construct State.unborn = .next State.reset

/-- The invariant holds at reset. -/
def Obligations.ResetMeetsInvariant : Prop := State.reset.Inv

/-! ### The decoder -/

/-- 20_memory.md R55, the address map: one clause per row, each without regard to the other rows' order, and bit 31 as
the direction. -/
def Obligations.AddressMapDecodesEachRegion : Prop :=
  ∀ (m : Nat) (a : Word),
    (a &&& 0x60000000#32 = 0#32 → decodeAddress m a = (.rom, (a >>> 6).toNat &&& m)) ∧
    (a &&& 0x7FFFFF00#32 = 0x20000000#32 → decodeAddress m a = (.rtc, (a &&& 0x03#32).toNat)) ∧
    (a &&& 0x7FFFFF00#32 = 0x20000100#32 → decodeAddress m a = (.sram, (a &&& 0x3F#32).toNat)) ∧
    (a &&& 0x7FFFFF00#32 = 0x20010000#32 → (decodeAddress m a).1 = .uart) ∧
    (a &&& 0x60000000#32 ≠ 0#32 → a &&& 0x7FFFFF00#32 ≠ 0x20000000#32 → a &&& 0x7FFFFF00#32 ≠ 0x20000100#32 →
      a &&& 0x7FFFFF00#32 ≠ 0x20010000#32 → (decodeAddress m a).1 = .illegal) ∧
    isWrite a = decide (2 ^ 31 ≤ a.toNat)

/-- 41_decoder_dispatch.md R131: a word and the word that differs only in bit 31 select the same region and base, for
every mask a valid configuration has. -/
def Obligations.DirectionBitDoesNotMoveTheRegion : Prop :=
  ∀ (c : Config) (a : Word), configValid c = true →
    decodeAddress (romMask c) (a ^^^ 0x80000000#32) = decodeAddress (romMask c) a ∧
    isWrite (a ^^^ 0x80000000#32) = !isWrite a

/-- 30_encoding.md R80, the opcode map: the operation of every request, row by row. -/
def Obligations.OpcodeMapSelectsTheOperation : Prop :=
  ∀ (pos : Nat) (a : Word) (d : Byte),
    (pos ≤ 2 → decodeOp pos a (.xfer d) = .xferAddr d) ∧
    (pos = 3 → decodeOp pos a (.xfer d) = .xferLatch d) ∧
    (4 ≤ pos → regionOf a = .rom → isWrite a = false → ∃ i x, decodeOp pos a (.xfer d) = .romRd i x d) ∧
    (4 ≤ pos → regionOf a = .rom → isWrite a = true → ∃ i x, decodeOp pos a (.xfer d) = .romWr i x d) ∧
    (4 ≤ pos → regionOf a = .rtc → isWrite a = false → ∃ x b, decodeOp pos a (.xfer d) = .rtcRd x b d) ∧
    (4 ≤ pos → regionOf a = .rtc → isWrite a = true → ∃ x b, decodeOp pos a (.xfer d) = .rtcWr x b d) ∧
    (4 ≤ pos → regionOf a = .sram → isWrite a = false → ∃ x b, decodeOp pos a (.xfer d) = .sramRd x b d) ∧
    (4 ≤ pos → regionOf a = .sram → isWrite a = true → ∃ x b, decodeOp pos a (.xfer d) = .sramWr x b d) ∧
    (4 ≤ pos → regionOf a = .uart → isWrite a = false → ∃ x, decodeOp pos a (.xfer d) = .uartRd x d) ∧
    (4 ≤ pos → regionOf a = .uart → isWrite a = true → ∃ x, decodeOp pos a (.xfer d) = .uartWr x d) ∧
    (4 ≤ pos → regionOf a = .illegal → isWrite a = false → ∃ w, decodeOp pos a (.xfer d) = .illRd w d) ∧
    (4 ≤ pos → regionOf a = .illegal → isWrite a = true → ∃ w, decodeOp pos a (.xfer d) = .illWr w d) ∧
    decodeOp pos a (.cs 1#1) = .csReset ∧ decodeOp pos a (.cs 0#1) = .csActive ∧
    decodeOp pos a .construct = .construct ∧ decodeOp pos a .teardown = .teardown

/-- 30_encoding.md R79: the base an operation takes from its own fields is the base `Decode` gives for its word. -/
def Obligations.OperandBasesAreTheDecodedBases : Prop :=
  ∀ (c : Config) (a : Word) (d : Byte), configValid c = true →
    (∀ i x, decodeData a d = .romRd i x d ∨ decodeData a d = .romWr i x d →
      decodeAddress (romMask c) a = (.rom, romBase c i)) ∧
    (∀ x b, decodeData a d = .rtcRd x b d ∨ decodeData a d = .rtcWr x b d →
      decodeAddress (romMask c) a = (.rtc, rtcBase b)) ∧
    (∀ x b, decodeData a d = .sramRd x b d ∨ decodeData a d = .sramWr x b d →
      decodeAddress (romMask c) a = (.sram, sramBase b))

/-- Every well-formed instruction is read back from its own bytes, with every operand at every value; an address byte is
read back at each of its three positions. -/
def Obligations.DecodeReadsBackEveryEncoding : Prop :=
  (∀ i : Instr, wellFormed i = true → decodeBytes (selectorOf i) (encode i) = .ok i) ∧
  (∀ (p : Nat) (d : Byte), p < 3 → decodeBytes (.xfer p) (encode (.xferAddr d)) = .ok (.xferAddr d))

/-- Every address word and data byte is some well-formed operation, whose encoding is that word and that byte: no bit of
the word is dropped, and the Illegal rows take exactly what is left (30_encoding.md R78, R81). -/
def Obligations.EveryWordIsOneWellFormedOperation : Prop :=
  ∀ (a : Word) (d : Byte), wellFormed (decodeData a d) = true ∧ wordOf (decodeData a d) = a ∧
    encode (decodeData a d) = [byte3 a, byte2 a, byte1 a, byte0 a, d]

/-- Some words of the spec's encodings and what they stand for (a sanity statement). -/
def Obligations.SampleTableWordsDecode : Prop :=
  decodeTableWord 8 1 = some .csReset ∧ decodeTableWord 8 0 = some .csActive ∧
  decodeTableWord 32 0x00000040 = some (.romRd 1 0 0) ∧ decodeTableWord 32 0x80000040 = some (.romWr 1 0 0) ∧
  decodeTableWord 32 0x200000FF = some (.rtcRd 63 3 0) ∧ decodeTableWord 32 0xA0000003 = some (.rtcWr 0 3 0) ∧
  decodeTableWord 32 0x20000112 = some (.sramRd 0 0x12 0) ∧ decodeTableWord 32 0xA00001FF = some (.sramWr 3 63 0) ∧
  decodeTableWord 32 0x20010000 = some (.uartRd 0 0) ∧ decodeTableWord 32 0xA00100FF = some (.uartWr 255 0) ∧
  decodeTableWord 32 0x40000000 = some (.illRd 0x40000000 0) ∧
  decodeTableWord 32 0xFFFFFFFF = some (.illWr 0x7FFFFFFF 0)

/-- A step runs the oldest issued operation under the opcode map, having taken it off the inbox; with none issued nothing
changes (log 1). -/
def Obligations.StepRunsTheDecodedOperation : Prop :=
  ∀ s : State,
    (s.inbox = [] → step s = .next s) ∧
    (∀ op rest, s.inbox = op :: rest →
      step s = exec (decodeOp s.pos s.addr op) { s with inbox := rest })

/-! ### The operations, one by one -/

/-- 40_transaction_controller.md R100: CS(1) requires a live device, resets `pos` and changes nothing else. -/
def Obligations.ChipSelectHighResetsPosition : Prop :=
  ∀ s : State,
    (s.life = .constructed → exec .csReset s = .next { s with pos := 0 }) ∧
    (s.life ≠ .constructed → exec .csReset s = .refused .notConstructed)

/-- 40_transaction_controller.md R101: CS(0) requires a live device and changes nothing. -/
def Obligations.ChipSelectLowChangesNothing : Prop :=
  ∀ s : State,
    (s.life = .constructed → exec .csActive s = .next s) ∧
    (s.life ≠ .constructed → exec .csActive s = .refused .notConstructed)

/-- 40_transaction_controller.md R102, as the bus master sees it: an XFER at any of the positions 0 to 3 shifts its byte into
`addr`, returns 0xFF and clears `off`; only at position 3 does it latch, which is one draw of the host clock and the
refresh of the RTC (R103). No other region, buffer or flag changes. -/
def Obligations.AddressPhaseTransferShiftsIn : Prop :=
  ∀ (s : State) (d : Byte) (rest : List BusOp), s.life = .constructed → s.pos < 4 → s.inbox = .xfer d :: rest →
    ∃ t, step s = .next t ∧
      t.addr = (s.addr <<< 8) ||| d.setWidth 32 ∧ t.dOut = some 0xFF#8 ∧ t.off = 0#32 ∧ t.pos = s.pos + 1 ∧
      t.inbox = rest ∧ t.rom = s.rom ∧ t.sram = s.sram ∧ t.ubuf = s.ubuf ∧ t.ovf = s.ovf ∧ t.life = s.life ∧
      t.cfg = s.cfg ∧ t.log = s.log ∧ t.warn = s.warn ∧ t.file = s.file ∧
      (s.pos < 3 → t.rtc = s.rtc ∧ t.diag = s.diag ∧ t.env = s.env) ∧
      (s.pos = 3 → t.rtc = rtcBytes (rtcValue s.cfg s.env.takeClock.1) s.rtc ∧ t.env = s.env.takeClock.2)

/-- 40_transaction_controller.md R102, the operation of positions 0, 1 and 2: the byte enters at the bottom of `addr`, the idle byte
0xFF is returned, `off` is cleared, and nothing else but `pos` changes. -/
def Obligations.AddressByteShiftsIn : Prop :=
  ∀ (s : State) (d : Byte), s.life = .constructed →
    exec (.xferAddr d) s = .next { s with
      addr := (s.addr <<< 8) ||| d.setWidth 32, dOut := some 0xFF#8, off := 0#32, pos := s.pos + 1 }

/-- 40_transaction_controller.md R103: as an address byte, and then one draw of the host clock,
the RTC refresh, and in a diagnostic build one classification of the complete address. -/
def Obligations.LatchRefreshesAndClassifies : Prop :=
  ∀ (s : State) (d : Byte), s.life = .constructed →
    let a := (s.addr <<< 8) ||| d.setWidth 32
    exec (.xferLatch d) s = .next { s with
      addr := a, dOut := some 0xFF#8, off := 0#32, pos := s.pos + 1
      env := s.env.takeClock.2
      rtc := rtcBytes (rtcValue s.cfg s.env.takeClock.1) s.rtc
      diag := s.diag ++ (if s.cfg.diagBuild then [.classify a (decodeAddress (romMask s.cfg) a).1] else []) }

/-- 43_rtc.md R171 with R172 and R173: after a latch the four RTC bytes, read big-endian, are `T - 946684800 - bias`
modulo 2^32, where `bias` is the big-endian reading of the template at BIAS_OFFSET, whatever the RTC and the SRAM held. -/
def Obligations.RtcHoldsBiasedHostTime : Prop :=
  ∀ (s : State) (d : Byte), s.life = .constructed → configValid s.cfg = true →
    ∃ t b0 b1 b2 b3, exec (.xferLatch d) s = .next t ∧
      s.cfg.sramTemplate[s.cfg.biasOffset]? = some b0 ∧ s.cfg.sramTemplate[s.cfg.biasOffset + 1]? = some b1 ∧
      s.cfg.sramTemplate[s.cfg.biasOffset + 2]? = some b2 ∧ s.cfg.sramTemplate[s.cfg.biasOffset + 3]? = some b3 ∧
      (((t.rtc.read 0).toNat * 2 ^ 24 + (t.rtc.read 1).toNat * 2 ^ 16 + (t.rtc.read 2).toNat * 2 ^ 8 +
          (t.rtc.read 3).toNat : Nat) : Int) =
        (s.env.takeClock.1 - 946684800 -
          ((b0.toNat * 2 ^ 24 + b1.toNat * 2 ^ 16 + b2.toNat * 2 ^ 8 + b3.toNat : Nat) : Int)) % 2 ^ 32 ∧
      (∀ j, 4 ≤ j → t.rtc.read j = s.rtc.read j)

/-- 44_rom.md R194. -/
def Obligations.RomReadReturnsTheByte : Prop :=
  ∀ (s : State) (i : BitVec 23) (x : BitVec 6) (d : Byte), s.life = .constructed →
    let idx := (i.toNat &&& (s.cfg.romSize - 1)) + s.off.toNat
    (idx < s.cfg.romSize → exec (.romRd i x d) s = .next { s with
      dOut := some (s.rom.read idx), off := s.off + 1, pos := s.pos + 1 }) ∧
    (s.cfg.romSize ≤ idx → Overruns (.romRd i x d) s)

/-- 44_rom.md R195: a write to the ROM changes no byte of it, and the byte comes back. -/
def Obligations.RomWriteIsIgnored : Prop :=
  ∀ (s : State) (i : BitVec 23) (x : BitVec 6) (d : Byte), s.life = .constructed →
    let idx := (i.toNat &&& (s.cfg.romSize - 1)) + s.off.toNat
    (idx < s.cfg.romSize → exec (.romWr i x d) s = .next { s with
      dOut := some d, off := s.off + 1, pos := s.pos + 1 }) ∧
    (s.cfg.romSize ≤ idx → Overruns (.romWr i x d) s)

/-- 43_rtc.md R175. -/
def Obligations.RtcReadReturnsTheByte : Prop :=
  ∀ (s : State) (x : BitVec 6) (b : BitVec 2) (d : Byte), s.life = .constructed →
    let idx := b.toNat + s.off.toNat
    (idx < 4 → exec (.rtcRd x b d) s = .next { s with
      dOut := some (s.rtc.read idx), off := s.off + 1, pos := s.pos + 1 }) ∧
    (4 ≤ idx → Overruns (.rtcRd x b d) s)

/-- 43_rtc.md R176: one byte of the RTC is written and every other byte reads as before. -/
def Obligations.RtcWriteStoresTheByte : Prop :=
  ∀ (s : State) (x : BitVec 6) (b : BitVec 2) (d : Byte), s.life = .constructed →
    let idx := b.toNat + s.off.toNat
    (idx < 4 → ∃ m, exec (.rtcWr x b d) s = .next { s with
        rtc := m, dOut := some d, off := s.off + 1, pos := s.pos + 1 } ∧
      m.read idx = d ∧ ∀ j, j ≠ idx → m.read j = s.rtc.read j) ∧
    (4 ≤ idx → Overruns (.rtcWr x b d) s)

/-- 42_sram.md R155. -/
def Obligations.SramReadReturnsTheByte : Prop :=
  ∀ (s : State) (x : BitVec 2) (b : BitVec 6) (d : Byte), s.life = .constructed →
    let idx := b.toNat + s.off.toNat
    (idx < 64 → exec (.sramRd x b d) s = .next { s with
      dOut := some (s.sram.read idx), off := s.off + 1, pos := s.pos + 1 }) ∧
    (64 ≤ idx → Overruns (.sramRd x b d) s)

/-- 42_sram.md R156: one byte of the live store is written and every other byte reads as before. -/
def Obligations.SramWriteStoresTheByte : Prop :=
  ∀ (s : State) (x : BitVec 2) (b : BitVec 6) (d : Byte), s.life = .constructed →
    let idx := b.toNat + s.off.toNat
    (idx < 64 → ∃ m, exec (.sramWr x b d) s = .next { s with
        sram := m, dOut := some d, off := s.off + 1, pos := s.pos + 1 } ∧
      m.read idx = d ∧ ∀ j, j ≠ idx → m.read j = s.sram.read j) ∧
    (64 ≤ idx → Overruns (.sramWr x b d) s)

/-- 45_uart.md R210: the fixed status byte, no state change but `off` and `pos`, never an overrun. -/
def Obligations.UartReadReturnsStatus : Prop :=
  ∀ (s : State) (x : BitVec 8) (d : Byte), s.life = .constructed →
    exec (.uartRd x d) s = .next { s with dOut := some 0x01#8, off := s.off + 1, pos := s.pos + 1 }

/-- 45_uart.md R211: append; on 0x0D the record is what was buffered before it; at 256 bytes the record is all of
them; the byte comes back. -/
def Obligations.UartWriteAppendsAndFlushes : Prop :=
  ∀ (s : State) (x : BitVec 8) (d : Byte), s.life = .constructed →
    (d = 0x0D#8 → exec (.uartWr x d) s = .next { s with
      log := s.log ++ [s.ubuf], ubuf := [], dOut := some d, off := s.off + 1, pos := s.pos + 1 }) ∧
    (d ≠ 0x0D#8 → (s.ubuf ++ [d]).length = 256 → exec (.uartWr x d) s = .next { s with
      log := s.log ++ [s.ubuf ++ [d]], ubuf := [], dOut := some d, off := s.off + 1, pos := s.pos + 1 }) ∧
    (d ≠ 0x0D#8 → (s.ubuf ++ [d]).length ≠ 256 → exec (.uartWr x d) s = .next { s with
      ubuf := s.ubuf ++ [d], dOut := some d, off := s.off + 1, pos := s.pos + 1 })

/-- 41_decoder_dispatch.md R141: the byte passes through in both directions; a diagnostic build emits one event. -/
def Obligations.IllegalPassesTheByteThrough : Prop :=
  ∀ (s : State) (a : BitVec 31) (d : Byte), s.life = .constructed →
    let t : State := { s with
      dOut := some d, off := s.off + 1, pos := s.pos + 1
      diag := s.diag ++ (if s.cfg.diagBuild then [.illegalAddress s.addr] else []) }
    exec (.illRd a d) s = .next t ∧ exec (.illWr a d) s = .next t

/-- 70_reset_and_hazards.md R262 with 42_sram.md R153: on a live device all 64 bytes are saved, a failed save is a warning, the
unflushed UART bytes are gone with no record, and the device is torn down. That a failed save leaves the file as it was is
the model's choice (log 8), on the vector of 95_test_vectors.md section 2.6; no rule says it. -/
def Obligations.TeardownSavesAndEndsTheLife : Prop :=
  ∀ s : State,
    (s.life ≠ .constructed → exec .teardown s = .refused .notConstructed) ∧
    (s.life = .constructed → s.env.takeSramSave.1 = .ok → ∃ bytes, exec .teardown s = .next { s with
        file := some bytes, ubuf := [], life := .tornDown, env := s.env.takeSramSave.2 } ∧
      bytes.length = 64 ∧ ∀ k, k < 64 → bytes[k]? = some (s.sram.read k)) ∧
    (s.life = .constructed → s.env.takeSramSave.1 = .fail → exec .teardown s = .next { s with
      warn := s.warn ++ [.persistenceWriteFailure], ubuf := [], life := .tornDown, env := s.env.takeSramSave.2 })

/-- The ignored address bits select nothing (30_encoding.md R81, 20_memory.md R53): two operations that differ only in them
are one. For the ROM these are bits 5:0 and every bit of 28:6 above the width of ROM_MASK (R74), so index fields with the
same base are one. -/
def Obligations.IgnoredAddressBitsDoNotMatter : Prop :=
  ∀ (s : State) (d : Byte),
    (∀ i j x y, romBase s.cfg i = romBase s.cfg j →
      exec (.romRd i x d) s = exec (.romRd j y d) s ∧ exec (.romWr i x d) s = exec (.romWr j y d) s) ∧
    (∀ x y b, exec (.rtcRd x b d) s = exec (.rtcRd y b d) s ∧ exec (.rtcWr x b d) s = exec (.rtcWr y b d) s) ∧
    (∀ x y b, exec (.sramRd x b d) s = exec (.sramRd y b d) s ∧ exec (.sramWr x b d) s = exec (.sramWr y b d) s) ∧
    (∀ x y, exec (.uartRd x d) s = exec (.uartRd y d) s ∧ exec (.uartWr x d) s = exec (.uartWr y d) s)

/-! ### The data phase as the bus master sees it -/

/-- 41_decoder_dispatch.md R132, first half: in read direction an XFER returns `region[base + off]` of the latched word,
and changes no more than `off` and `pos`. -/
def Obligations.DataByteReadsTheAddressedByte : Prop :=
  ∀ (s : State) (r : Region) (base : Nat) (d : Byte) (rest : List BusOp),
    s.life = .constructed → configValid s.cfg = true → 4 ≤ s.pos → s.inbox = .xfer d :: rest → s.dir = false →
    decodeAddress (romMask s.cfg) s.addr = (r, base) → base + s.off.toNat < regionSize s.cfg r →
    step s = .next { s with
      inbox := rest, dOut := some (s.readByte r (base + s.off.toNat)), off := s.off + 1, pos := s.pos + 1 }

/-- 41_decoder_dispatch.md R132, second half: in write direction an XFER stores its byte into `region[base + off]` of
the RTC or the SRAM, every other byte of every region reads as before, and the byte comes back. -/
def Obligations.DataByteWritesTheAddressedByte : Prop :=
  ∀ (s : State) (r : Region) (base : Nat) (d : Byte) (rest : List BusOp),
    s.life = .constructed → configValid s.cfg = true → 4 ≤ s.pos → s.inbox = .xfer d :: rest → s.dir = true →
    decodeAddress (romMask s.cfg) s.addr = (r, base) → r = .rtc ∨ r = .sram →
    base + s.off.toNat < regionSize s.cfg r →
    ∃ t, step s = .next t ∧ t.dOut = some d ∧ t.off = s.off + 1 ∧ t.pos = s.pos + 1 ∧ t.inbox = rest ∧
      t.addr = s.addr ∧ t.ovf = s.ovf ∧ t.warn = s.warn ∧ t.log = s.log ∧ t.diag = s.diag ∧ t.ubuf = s.ubuf ∧
      ∀ q j, t.readByte q j = if q = r ∧ j = base + s.off.toNat then d else s.readByte q j

/-- 41_decoder_dispatch.md R134: at or past the region's size an XFER is an overrun, in either direction; UART and Illegal
never overrun. -/
def Obligations.BoundCheckDecidesTheOverrun : Prop :=
  ∀ (s : State) (r : Region) (base : Nat) (d : Byte), s.life = .constructed → configValid s.cfg = true →
    decodeAddress (romMask s.cfg) s.addr = (r, base) →
    (r = .rom ∨ r = .rtc ∨ r = .sram → regionSize s.cfg r ≤ base + s.off.toNat →
      Overruns (decodeData s.addr d) s) ∧
    (r = .rom ∨ r = .rtc ∨ r = .sram → base + s.off.toNat < regionSize s.cfg r →
      ∃ t, exec (decodeData s.addr d) s = .next t ∧ t.ovf = s.ovf ∧ t.warn = s.warn) ∧
    (r = .uart ∨ r = .illegal →
      ∃ t, exec (decodeData s.addr d) s = .next t ∧ t.ovf = s.ovf ∧ t.warn = s.warn)

/-- 41_decoder_dispatch.md R133 for every access that does not overrun (a claim takes `ovf = false` as its premise,
10_state.md R30): the outgoing byte of a write is the incoming byte. -/
def Obligations.WritesEchoTheByte : Prop :=
  ∀ (s t : State) (d : Byte) (rest : List BusOp), 4 ≤ s.pos → s.inbox = .xfer d :: rest → s.dir = true →
    step s = .next t → t.noFault → t.dOut = some d

/-- 60_exceptions.md R231: no operation faults, and every XFER of a live device completes, returns a byte and increments
`pos`, even when it overruns or touches Illegal. -/
def Obligations.EveryTransferCompletes : Prop :=
  (∀ (i : Instr) (s : State) (f : Fault), exec i s ≠ .fault f) ∧
  (∀ (s : State) (d : Byte) (rest : List BusOp), s.life = .constructed → s.inbox = .xfer d :: rest →
    ∃ t b, step s = .next t ∧ t.dOut = some b ∧ t.pos = s.pos + 1 ∧ t.inbox = rest ∧ t.life = .constructed)

/-- 70_reset_and_hazards.md R263: CS, XFER and TEARDOWN are refused unless the device is Constructed; and a new device has
every item of R20 from its configuration and the host's answers alone, whatever device stood before. (The file reaches it
only as the answer of the load.) -/
def Obligations.NothingRunsOutsideTheLifetime : Prop :=
  (∀ (s : State) (op : BusOp) (rest : List BusOp), s.life ≠ .constructed → s.inbox = op :: rest → op ≠ .construct →
    step s = .refused .notConstructed) ∧
  (∀ s u t v : State, u.env = s.env → exec .construct s = .next t → exec .construct u = .next v →
    v.snapshot = t.snapshot ∧ v.cfg = t.cfg)

/-- 60_exceptions.md R232, "Stuck: no case": every operation of a constructed device has a step. -/
def Obligations.LiveOperationsAlwaysStep : Prop :=
  ∀ (s : State) (op : BusOp) (rest : List BusOp), s.life = .constructed → s.inbox = op :: rest → op ≠ .construct →
    ∃ t, step s = .next t

/-! ### Whole-machine rules -/

/-- 44_rom.md R193: no operation but CONSTRUCT writes the ROM, and none changes a parameter (00_scope.md R7). -/
def Obligations.RomAndParametersAreFixedForLife : Prop :=
  ∀ (i : Instr) (s t : State), i ≠ .construct → exec i s = .next t → t.rom = s.rom ∧ t.cfg = s.cfg

/-- A data-phase operation reaches no region but its own, and a read-direction one changes no region byte and no buffered
byte (20_memory.md R54); `addr` and the life never change, nor does the file (R63). -/
def Obligations.DataByteTouchesOnlyItsRegion : Prop :=
  ∀ (s t : State) (a : Word) (d : Byte), exec (decodeData a d) s = .next t →
    (∀ q j, q ≠ regionOf a → t.readByte q j = s.readByte q j) ∧
    (isWrite a = false → (∀ q j, t.readByte q j = s.readByte q j) ∧ t.ubuf = s.ubuf ∧ t.log = s.log) ∧
    (regionOf a ≠ .uart → t.ubuf = s.ubuf ∧ t.log = s.log) ∧
    t.addr = s.addr ∧ t.off = s.off + 1 ∧ t.life = s.life ∧ t.file = s.file ∧ t.env = s.env ∧ t.inbox = s.inbox

/-- 10_state.md R30: only an overrun sets `ovf`, and nothing but construction clears it. -/
def Obligations.OverrunFlagIsSticky : Prop :=
  ∀ (i : Instr) (s t : State), i ≠ .construct → exec i s = .next t →
    (s.ovf = true → t.ovf = true) ∧
    (s.ovf = false → t.ovf = true → Overruns i s)

/-- 10_state.md R31: the channels are append-only, over a CONSTRUCT too (the model's choice, log 7); and one data-phase operation emits at most one event (60_exceptions.md
R234). -/
def Obligations.ChannelsOnlyGrow : Prop :=
  (∀ (s t : State), step s = .next t → s.log <+: t.log ∧ s.warn <+: t.warn ∧ s.diag <+: t.diag) ∧
  (∀ (a : Word) (d : Byte) (s t : State), exec (decodeData a d) s = .next t →
    t.log.length + t.warn.length + t.diag.length ≤ s.log.length + s.warn.length + s.diag.length + 1)

/-- 60_exceptions.md R237: the block never reads the channels: what it does and emits is the same whatever has been emitted
before. -/
def Obligations.BlockNeverReadsTheChannels : Prop :=
  ∀ (n : Nat) (s : State), run n s = mapNext s.emittedBefore (run n s.withoutChannels)

/-- 20_memory.md R63: of all operations only TEARDOWN reaches the backing file. That it changes the file only when the save
succeeds is the model's choice (log 8), on the vector of 95_test_vectors.md section 2.6; R63 does not say it. -/
def Obligations.OnlyTeardownReachesTheFile : Prop :=
  ∀ (i : Instr) (s t : State), exec i s = .next t → t.file ≠ s.file →
    i = .teardown ∧ s.env.takeSramSave.1 = .ok

/-- 10_state.md R31, last item: the diagnostics channel stays empty in a release build. -/
def Obligations.ReleaseBuildsEmitNoDiagnostics : Prop :=
  ∀ (i : Instr) (s t : State), i ≠ .construct → s.cfg.diagBuild = false → s.diag = [] → exec i s = .next t →
    t.diag = []

/-- Every step keeps the invariant: canonical bounded stores (10_state.md R26 to R28), a line buffer below its capacity
(R29) and a valid configuration (R261). -/
def Obligations.StepKeepsTheInvariant : Prop :=
  ∀ (s t : State), s.Inv → step s = .next t → t.Inv

/-- 10_state.md R21: a counter of `pos` that saturates at 4 behaves exactly as the unbounded count does, over every
run. -/
def Obligations.SaturatingPositionIsEquivalent : Prop :=
  ∀ (n : Nat) (s : State),
    mapNext State.saturated (run n s) = mapNext State.saturated (run n s.saturated)

/-! ### Transactions -/

/-- 40_transaction_controller.md R107, first property, and R108: after `CS(1)` and four XFERs `addr` is the big-endian
word of the four bytes and `off` is 0, whatever stood before; the address phase changes no region but the RTC, no buffer
and no record. -/
def Obligations.FourBytesBuildTheAddress : Prop :=
  ∀ (s : State) (b0 b1 b2 b3 : Byte) (rest : List BusOp), s.life = .constructed →
    s.inbox = cs1 ++ (wr [b0, b1, b2, b3] ++ rest) →
    ∃ t, run 5 s = .next t ∧
      t.addr.toNat = b0.toNat * 2 ^ 24 + b1.toNat * 2 ^ 16 + b2.toNat * 2 ^ 8 + b3.toNat ∧
      t.off = 0#32 ∧ t.pos = 4 ∧ t.inbox = rest ∧ t.dOut = some 0xFF#8 ∧ t.life = .constructed ∧ t.cfg = s.cfg ∧
      t.rom = s.rom ∧ t.sram = s.sram ∧ t.ubuf = s.ubuf ∧ t.log = s.log ∧ t.warn = s.warn ∧ t.ovf = s.ovf

/-- 40_transaction_controller.md R107, second property: `off` counts the data-phase bytes modulo 2^32, `addr` stays, and no
number of them re-enters the address phase (R106). -/
def Obligations.OffsetCountsTheDataBytes : Prop :=
  ∀ (bytes : List Byte) (s : State) (rest : List BusOp), s.life = .constructed → 4 ≤ s.pos →
    s.inbox = wr bytes ++ rest →
    ∃ t, run bytes.length s = .next t ∧ t.off = s.off + BitVec.ofNat 32 bytes.length ∧
      t.pos = s.pos + bytes.length ∧ t.addr = s.addr ∧ t.inbox = rest ∧ t.life = .constructed ∧ t.cfg = s.cfg ∧
      t.rom = s.rom ∧ t.env = s.env

/-- 42_sram.md R157: a byte written to SRAM offset `k` in one transaction is read back in the next, with no overrun, and
the file holds it after a teardown whose save succeeds. -/
def Obligations.SramWriteReadsBackAndPersists : Prop :=
  ∀ (s : State) (k : BitVec 6) (v : Byte) (rest : List BusOp), s.life = .constructed →
    s.inbox = txn (0xA0000100#32 ||| k.setWidth 32) (wr [v]) ++
      (txn (0x20000100#32 ||| k.setWidth 32) (rd 1) ++ rest) →
    ∃ t, run 12 s = .next t ∧ t.dOut = some v ∧ t.sram.read k.toNat = v ∧
      (∀ j, j ≠ k.toNat → t.sram.read j = s.sram.read j) ∧ t.ovf = s.ovf ∧ t.inbox = rest ∧
      t.life = .constructed ∧
      (t.env.takeSramSave.1 = .ok →
        ∃ u bytes, exec .teardown t = .next u ∧ u.file = some bytes ∧ bytes[k.toNat]? = some v)

/-- 44_rom.md R196: right after construction, reading the boot image at offset `k` for `k` from 0 to 45 returns byte `k`
of the version string, whatever the fonts are. That the CONSTRUCT runs whatever the life before it is the model's choice
(log 10). -/
def Obligations.VersionStringReadsBackAfterConstruction : Prop :=
  ∀ (s : State) (c : Config) (cs : List Config) (k : Nat) (rest : List BusOp), configValid c = true → k ≤ 45 →
    s.env.configs = c :: cs → s.inbox = .construct :: (txn 0x00000000#32 (rd (k + 1)) ++ rest) →
    ∃ t b, run (k + 7) s = .next t ∧ c.versionString[k]? = some b ∧ t.dOut = some b ∧ t.noFault ∧ t.inbox = rest

/-- 45_uart.md R211 and R212 over whole lines: any bytes without the terminator that fit, then 0x0D, give exactly one
record, the buffered bytes followed by these, and an empty buffer. With an empty buffer and `H,e,l,l,o` it is R212. -/
def Obligations.UartLineBecomesOneRecord : Prop :=
  ∀ (line : List Byte) (s : State) (rest : List BusOp), s.life = .constructed → 4 ≤ s.pos →
    regionOf s.addr = .uart → s.dir = true → 0x0D#8 ∉ line → s.ubuf.length + line.length ≤ 255 →
    s.inbox = wr (line ++ [0x0D#8]) ++ rest →
    ∃ t, run (line.length + 1) s = .next t ∧ t.log = s.log ++ [s.ubuf ++ line] ∧ t.ubuf = [] ∧ t.inbox = rest ∧
      t.warn = s.warn ∧ t.diag = s.diag ∧ t.ovf = s.ovf ∧ t.sram = s.sram ∧ t.rtc = s.rtc ∧ t.rom = s.rom

/-- 45_uart.md R211 at the capacity: 256 bytes without the terminator, from an empty buffer, are one record of all
256. -/
def Obligations.UartFullBufferBecomesOneRecord : Prop :=
  ∀ (line : List Byte) (s : State) (rest : List BusOp), s.life = .constructed → 4 ≤ s.pos →
    regionOf s.addr = .uart → s.dir = true → 0x0D#8 ∉ line → line.length = 256 → s.ubuf = [] →
    s.inbox = wr line ++ rest →
    ∃ t, run 256 s = .next t ∧ t.log = s.log ++ [line] ∧ t.ubuf = [] ∧ t.inbox = rest ∧ t.ovf = s.ovf

/-- 43_rtc.md R177: two refreshes whose clock readings differ by 10 hold values that differ by 10 modulo 2^32, whatever
the RTC held before each. -/
def Obligations.RtcAdvancesWithTheHostClock : Prop :=
  ∀ (s u : State) (d e : Byte) (T : Int) (ts us : List Int), s.life = .constructed → u.life = .constructed →
    u.cfg = s.cfg → s.env.clock = T :: ts → u.env.clock = (T + 10) :: us →
    ∃ t v, exec (.xferLatch d) s = .next t ∧ exec (.xferLatch e) u = .next v ∧
      be32 (v.rtc.read 0) (v.rtc.read 1) (v.rtc.read 2) (v.rtc.read 3) =
        be32 (t.rtc.read 0) (t.rtc.read 1) (t.rtc.read 2) (t.rtc.read 3) + 10#32

/-- 43_rtc.md R176's corner case and 70_reset_and_hazards.md R265 item 2: a bus master cannot set the clock. Whatever the
RTC holds, reading RTC byte `k` in a transaction of its own returns the byte of the value refreshed at that
transaction's latch. -/
def Obligations.RtcWritesAreLostAtTheNextLatch : Prop :=
  ∀ (s : State) (k : BitVec 2) (T : Int) (ts : List Int) (rest : List BusOp), s.life = .constructed →
    s.env.clock = T :: ts → s.inbox = txn (0x20000000#32 ||| k.setWidth 32) (rd 1) ++ rest →
    ∃ t, run 6 s = .next t ∧ t.ovf = s.ovf ∧ t.inbox = rest ∧
      t.dOut = some ((rtcValue s.cfg T).extractLsb' (24 - 8 * k.toNat) 8)

/-- 70_reset_and_hazards.md R263 and 60_exceptions.md R243: the SRAM file is the one link from a device to the next. If
the save succeeds and the next construction's load answers with the file, its SRAM is the old one but for the language
byte. -/
def Obligations.SramSurvivesThroughTheFile : Prop :=
  ∀ (s : State) (c : Config) (cs : List Config) (fonts : List LoadAnswer) (loads : List LoadAnswer),
    s.life = .constructed → s.env.takeSramSave.1 = .ok → configValid c = true →
    ∃ t bytes, exec .teardown s = .next t ∧ t.file = some bytes ∧
      ∃ u, exec .construct { t with env := { t.env with
          configs := c :: cs, fontLoads := fonts, sramLoads := .ok bytes :: loads } } = .next u ∧
        ∀ k, k < 64 → u.sram.read k = if k = 0x12 then c.lang else s.sram.read k
end

