-- ==== Sys2Proof/Laws/Memory.lean ====
section
/-! SUPPORT. The laws of a region's byte store: read after write, the canonical form, the region's bound, and that equal
contents in canonical form are equal data. -/

namespace Sys2Proof.Machine

theorem eraseCell_eq_filter (i : Nat) (cs : List Host.Cell) : eraseCell i cs = cs.filter (fun c => c.1 ≠ i) := by
  induction cs with
  | nil => rfl
  | cons c cs ih => by_cases h : c.1 = i <;> simp [eraseCell, h, ih]

theorem mem_eraseCell {i : Nat} {cs : List Host.Cell} {c : Host.Cell} :
    c ∈ eraseCell i cs ↔ c ∈ cs ∧ c.1 ≠ i := by
  simp [eraseCell_eq_filter]

theorem mem_insertCell {i : Nat} {v : Byte} {cs : List Host.Cell} {c : Host.Cell} :
    c ∈ insertCell i v cs ↔ c = (i, v) ∨ c ∈ cs := by
  induction cs with
  | nil => simp [insertCell]
  | cons d cs ih =>
    by_cases h : i < d.1
    · simp [insertCell, h]
    · simp only [insertCell, h, if_false, List.mem_cons, ih]; tauto

theorem lookup_eraseCell_same (f : Byte) (i : Nat) (cs : List Host.Cell) : lookupCell f i (eraseCell i cs) = f := by
  induction cs with
  | nil => rfl
  | cons c cs ih => by_cases h : c.1 = i <;> simp [eraseCell, lookupCell, h, ih]

theorem lookup_eraseCell_other (f : Byte) {i j : Nat} (h : j ≠ i) (cs : List Host.Cell) :
    lookupCell f j (eraseCell i cs) = lookupCell f j cs := by
  induction cs with
  | nil => rfl
  | cons c cs ih =>
    by_cases hi : c.1 = i
    · have hj : c.1 ≠ j := fun e => h (e.symm.trans hi)
      simp [eraseCell, lookupCell, hi, ih, Ne.symm h]
    · by_cases hj : c.1 = j <;> simp [eraseCell, lookupCell, hi, hj, ih, h]

theorem lookup_insertCell_same (f v : Byte) {i : Nat} {cs : List Host.Cell} (h : ∀ c ∈ cs, c.1 ≠ i) :
    lookupCell f i (insertCell i v cs) = v := by
  induction cs with
  | nil => simp [insertCell, lookupCell]
  | cons c cs ih =>
    have hc : c.1 ≠ i := h c (by simp)
    have := ih fun d hd => h d (by simp [hd])
    by_cases hlt : i < c.1 <;> simp [insertCell, lookupCell, hlt, hc, this]

theorem lookup_insertCell_other (f v : Byte) {i j : Nat} (h : j ≠ i) (cs : List Host.Cell) :
    lookupCell f j (insertCell i v cs) = lookupCell f j cs := by
  induction cs with
  | nil => simp [insertCell, lookupCell, Ne.symm h]
  | cons c cs ih =>
    by_cases hlt : i < c.1
    · simp [insertCell, lookupCell, hlt, Ne.symm h]
    · simp only [insertCell, hlt, if_false, lookupCell, ih]

/-- A read after a write to the same index gives the value written. -/
@[simp] theorem read_write_same (m : Memory) (i : Nat) (v : Byte) : (m.write i v).read i = v := by
  by_cases h : v = m.fill
  · simp [Memory.write, Memory.read, h, lookup_eraseCell_same]
  · simp only [Memory.write, h, if_false, Memory.read]
    exact lookup_insertCell_same _ _ fun c hc => (mem_eraseCell.1 hc).2

/-- A write leaves every other index alone. -/
theorem read_write_other (m : Memory) {i j : Nat} (v : Byte) (h : j ≠ i) : (m.write i v).read j = m.read j := by
  by_cases hv : v = m.fill
  · simp [Memory.write, Memory.read, hv, lookup_eraseCell_other _ h]
  · simp [Memory.write, Memory.read, hv, lookup_insertCell_other _ _ h, lookup_eraseCell_other _ h]

theorem read_write (m : Memory) (i j : Nat) (v : Byte) :
    (m.write i v).read j = if j = i then v else m.read j := by
  by_cases h : j = i
  · simp [h]
  · simp [h, read_write_other]

@[simp] theorem write_fill (m : Memory) (i : Nat) (v : Byte) : (m.write i v).fill = m.fill := by
  by_cases h : v = m.fill <;> simp [Memory.write, h]

theorem mem_write {m : Memory} {i : Nat} {v : Byte} {c : Host.Cell} (h : c ∈ (m.write i v).cells) :
    (c = (i, v) ∧ v ≠ m.fill) ∨ c ∈ m.cells := by
  by_cases hv : v = m.fill
  · simp only [Memory.write, hv, if_true] at h; exact .inr (mem_eraseCell.1 h).1
  · simp only [Memory.write, hv, if_false, mem_insertCell, mem_eraseCell] at h; tauto

theorem pairwise_insertCell {i : Nat} {v : Byte} {cs : List Host.Cell} (hs : cs.Pairwise (fun c d => c.1 < d.1))
    (hi : ∀ c ∈ cs, c.1 ≠ i) : (insertCell i v cs).Pairwise (fun c d => c.1 < d.1) := by
  induction cs with
  | nil => simp [insertCell]
  | cons c cs ih =>
    obtain ⟨hc, hcs⟩ := List.pairwise_cons.1 hs
    by_cases hlt : i < c.1
    · simp only [insertCell, hlt, if_true, List.pairwise_cons, List.mem_cons]
      refine ⟨?_, hc, hcs⟩
      rintro d (rfl | hd)
      · exact hlt
      · exact hlt.trans (hc d hd)
    · simp only [insertCell, hlt, if_false, List.pairwise_cons, mem_insertCell]
      refine ⟨?_, ih hcs fun d hd => hi d (by simp [hd])⟩
      rintro d (rfl | hd)
      · have : c.1 ≠ i := hi c (by simp)
        simp only; omega
      · exact hc d hd

/-- Every write keeps the canonical form. -/
theorem write_wf {m : Memory} (h : m.wf) (i : Nat) (v : Byte) : (m.write i v).wf := by
  refine ⟨?_, fun c hc => ?_⟩
  · have he : (eraseCell i m.cells).Pairwise (fun c d => c.1 < d.1) := by
      rw [eraseCell_eq_filter]; exact h.1.filter _
    by_cases hv : v = m.fill
    · simpa [Memory.write, hv] using he
    · simp only [Memory.write, hv, if_false]
      exact pairwise_insertCell he fun c hc => (mem_eraseCell.1 hc).2
  · rw [write_fill]
    obtain ⟨rfl, hv⟩ | hm := mem_write hc
    · exact hv
    · exact h.2 c hm

/-- A write below the bound keeps the bound. -/
theorem write_within {m : Memory} {n : Nat} (h : m.within n) {i : Nat} (hi : i < n) (v : Byte) :
    (m.write i v).within n := by
  intro c hc
  obtain ⟨rfl, -⟩ | hm := mem_write hc
  · exact hi
  · exact h c hm

@[simp] theorem blank_fill (f : Byte) : (Memory.blank f).fill = f := rfl
@[simp] theorem blank_read (f : Byte) (i : Nat) : (Memory.blank f).read i = f := rfl
theorem blank_wf (f : Byte) : (Memory.blank f).wf := ⟨List.Pairwise.nil, by simp [Memory.blank]⟩
theorem blank_within (f : Byte) (n : Nat) : (Memory.blank f).within n := by simp [Memory.blank]

@[simp] theorem writeAll_fill (m : Memory) (i : Nat) (vs : List Byte) : (m.writeAll i vs).fill = m.fill := by
  induction vs generalizing m i with
  | nil => rfl
  | cons v vs ih => simp [Memory.writeAll, ih]

theorem writeAll_wf {m : Memory} (h : m.wf) (i : Nat) (vs : List Byte) : (m.writeAll i vs).wf := by
  induction vs generalizing m i with
  | nil => exact h
  | cons v vs ih => exact ih (write_wf h i v) (i + 1)

theorem writeAll_within {m : Memory} {n : Nat} (h : m.within n) {i : Nat} {vs : List Byte} (hi : i + vs.length ≤ n) :
    (m.writeAll i vs).within n := by
  induction vs generalizing m i with
  | nil => exact h
  | cons v vs ih =>
    simp only [List.length_cons] at hi
    exact ih (write_within h (by omega) v) (by omega)

/-- What bytes written in a row read as, and that every other index is left alone. -/
theorem read_writeAll (m : Memory) (i j : Nat) (vs : List Byte) :
    (m.writeAll i vs).read j = if i ≤ j then vs.getD (j - i) (m.read j) else m.read j := by
  induction vs generalizing m i with
  | nil => simp [Memory.writeAll]
  | cons v vs ih =>
    simp only [Memory.writeAll, ih, read_write]
    obtain h | h | h := Nat.lt_trichotomy j i
    · simp [show ¬ i ≤ j by omega, show ¬ i + 1 ≤ j by omega, show j ≠ i by omega]
    · subst h; simp
    · obtain ⟨k, rfl⟩ : ∃ k, j = i + 1 + k := ⟨j - (i + 1), by omega⟩
      simp [show i + 1 + k - i = k + 1 by omega, show i ≤ i + 1 + k by omega, show i + 1 + k ≠ i by omega]

/-- Below the first byte written, nothing changes. -/
theorem read_writeAll_below (m : Memory) {i j : Nat} (vs : List Byte) (h : j < i) :
    (m.writeAll i vs).read j = m.read j := by
  rw [read_writeAll, if_neg (by omega)]

theorem lookup_of_lt {f : Byte} {i : Nat} {cs : List Host.Cell} (h : ∀ c ∈ cs, i < c.1) : lookupCell f i cs = f := by
  induction cs with
  | nil => rfl
  | cons c cs ih =>
    have := h c (by simp)
    simp [lookupCell, show c.1 ≠ i by omega, ih fun d hd => h d (by simp [hd])]

/-- Two lists in canonical form that read alike are the same list. -/
theorem cells_ext {f : Byte} {cs ds : List Host.Cell}
    (hc : cs.Pairwise (fun c d => c.1 < d.1) ∧ ∀ c ∈ cs, c.2 ≠ f)
    (hd : ds.Pairwise (fun c d => c.1 < d.1) ∧ ∀ c ∈ ds, c.2 ≠ f)
    (h : ∀ i, lookupCell f i cs = lookupCell f i ds) : cs = ds := by
  induction cs generalizing ds with
  | nil =>
    cases ds with
    | nil => rfl
    | cons d ds => exact absurd (by simpa [lookupCell] using (h d.1).symm) (hd.2 d (by simp))
  | cons c cs ih =>
    obtain ⟨hc1, hcs⟩ := List.pairwise_cons.1 hc.1
    cases ds with
    | nil => exact absurd (by simpa [lookupCell] using h c.1) (hc.2 c (by simp))
    | cons d ds =>
      obtain ⟨hd1, hds⟩ := List.pairwise_cons.1 hd.1
      have key : c.1 = d.1 := by
        obtain hlt | heq | hgt := Nat.lt_trichotomy c.1 d.1
        · have := h c.1
          rw [lookup_of_lt (cs := d :: ds) (by
            intro e he; obtain rfl | he := List.mem_cons.1 he
            · exact hlt
            · exact hlt.trans (hd1 e he))] at this
          exact absurd (by simpa [lookupCell] using this) (hc.2 c (by simp))
        · exact heq
        · have := h d.1
          rw [lookup_of_lt (cs := c :: cs) (by
            intro e he; obtain rfl | he := List.mem_cons.1 he
            · exact hgt
            · exact hgt.trans (hc1 e he))] at this
          exact absurd (by simpa [lookupCell] using this.symm) (hd.2 d (by simp))
      have val : c.2 = d.2 := by simpa [lookupCell, key] using h c.1
      have tail : cs = ds := by
        refine ih ⟨hcs, fun e he => hc.2 e (by simp [he])⟩ ⟨hds, fun e he => hd.2 e (by simp [he])⟩ fun i => ?_
        by_cases hi : i = c.1
        · rw [hi, lookup_of_lt hc1, key, lookup_of_lt hd1]
        · simpa [lookupCell, Ne.symm hi, key ▸ Ne.symm hi] using h i
      rw [tail, Prod.ext key val]

/-- Equal memories are equal data. -/
theorem Memory.ext_of_read {m n : Memory} (hm : m.wf) (hn : n.wf) (hf : m.fill = n.fill)
    (h : ∀ i, m.read i = n.read i) : m = n := by
  obtain ⟨f, cs⟩ := m
  obtain ⟨g, ds⟩ := n
  obtain rfl : f = g := hf
  congr 1
  exact cells_ext hm hn h

/-- A canonical memory bounded by `n` reads as its background from `n` on. -/
theorem read_of_within {m : Memory} {n i : Nat} (h : m.within n) (hi : n ≤ i) : m.read i = m.fill := by
  obtain ⟨f, cs⟩ := m
  simp only [Memory.read]
  induction cs with
  | nil => rfl
  | cons c cs ih =>
    have hc : c.1 < n := h c (by simp)
    simp [lookupCell, show c.1 ≠ i by omega]
    exact ih fun d hd => h d (by simp [hd])

@[simp] theorem firstBytes_length (m : Memory) (n : Nat) : (m.firstBytes n).length = n := by simp [Memory.firstBytes]

theorem firstBytes_getElem (m : Memory) {n i : Nat} (h : i < n) : (m.firstBytes n)[i]? = some (m.read i) := by
  simp [Memory.firstBytes, h]

end Sys2Proof.Machine
end

