-- ==== Sys2Proof/Laws/State.lean ====
section
/-! SUPPORT. One lemma per field per named update of the state, and the composed updates as one record update. -/

namespace Sys2Proof.Machine

variable (s : State)

/-! ### setPos -/
@[simp] theorem setPos_pos (v : Nat) : (s.setPos v).pos = v := rfl
@[simp] theorem setPos_addr (v : Nat) : (s.setPos v).addr = s.addr := rfl
@[simp] theorem setPos_off (v : Nat) : (s.setPos v).off = s.off := rfl
@[simp] theorem setPos_rtc (v : Nat) : (s.setPos v).rtc = s.rtc := rfl
@[simp] theorem setPos_sram (v : Nat) : (s.setPos v).sram = s.sram := rfl
@[simp] theorem setPos_rom (v : Nat) : (s.setPos v).rom = s.rom := rfl
@[simp] theorem setPos_ubuf (v : Nat) : (s.setPos v).ubuf = s.ubuf := rfl
@[simp] theorem setPos_ovf (v : Nat) : (s.setPos v).ovf = s.ovf := rfl
@[simp] theorem setPos_life (v : Nat) : (s.setPos v).life = s.life := rfl
@[simp] theorem setPos_cfg (v : Nat) : (s.setPos v).cfg = s.cfg := rfl
@[simp] theorem setPos_log (v : Nat) : (s.setPos v).log = s.log := rfl
@[simp] theorem setPos_warn (v : Nat) : (s.setPos v).warn = s.warn := rfl
@[simp] theorem setPos_diag (v : Nat) : (s.setPos v).diag = s.diag := rfl
@[simp] theorem setPos_dOut (v : Nat) : (s.setPos v).dOut = s.dOut := rfl
@[simp] theorem setPos_file (v : Nat) : (s.setPos v).file = s.file := rfl
@[simp] theorem setPos_inbox (v : Nat) : (s.setPos v).inbox = s.inbox := rfl
@[simp] theorem setPos_env (v : Nat) : (s.setPos v).env = s.env := rfl

/-! ### setAddr -/
@[simp] theorem setAddr_pos (v : Word) : (s.setAddr v).pos = s.pos := rfl
@[simp] theorem setAddr_addr (v : Word) : (s.setAddr v).addr = v := rfl
@[simp] theorem setAddr_off (v : Word) : (s.setAddr v).off = s.off := rfl
@[simp] theorem setAddr_rtc (v : Word) : (s.setAddr v).rtc = s.rtc := rfl
@[simp] theorem setAddr_sram (v : Word) : (s.setAddr v).sram = s.sram := rfl
@[simp] theorem setAddr_rom (v : Word) : (s.setAddr v).rom = s.rom := rfl
@[simp] theorem setAddr_ubuf (v : Word) : (s.setAddr v).ubuf = s.ubuf := rfl
@[simp] theorem setAddr_ovf (v : Word) : (s.setAddr v).ovf = s.ovf := rfl
@[simp] theorem setAddr_life (v : Word) : (s.setAddr v).life = s.life := rfl
@[simp] theorem setAddr_cfg (v : Word) : (s.setAddr v).cfg = s.cfg := rfl
@[simp] theorem setAddr_log (v : Word) : (s.setAddr v).log = s.log := rfl
@[simp] theorem setAddr_warn (v : Word) : (s.setAddr v).warn = s.warn := rfl
@[simp] theorem setAddr_diag (v : Word) : (s.setAddr v).diag = s.diag := rfl
@[simp] theorem setAddr_dOut (v : Word) : (s.setAddr v).dOut = s.dOut := rfl
@[simp] theorem setAddr_file (v : Word) : (s.setAddr v).file = s.file := rfl
@[simp] theorem setAddr_inbox (v : Word) : (s.setAddr v).inbox = s.inbox := rfl
@[simp] theorem setAddr_env (v : Word) : (s.setAddr v).env = s.env := rfl

/-! ### setOff -/
@[simp] theorem setOff_pos (v : Word) : (s.setOff v).pos = s.pos := rfl
@[simp] theorem setOff_addr (v : Word) : (s.setOff v).addr = s.addr := rfl
@[simp] theorem setOff_off (v : Word) : (s.setOff v).off = v := rfl
@[simp] theorem setOff_rtc (v : Word) : (s.setOff v).rtc = s.rtc := rfl
@[simp] theorem setOff_sram (v : Word) : (s.setOff v).sram = s.sram := rfl
@[simp] theorem setOff_rom (v : Word) : (s.setOff v).rom = s.rom := rfl
@[simp] theorem setOff_ubuf (v : Word) : (s.setOff v).ubuf = s.ubuf := rfl
@[simp] theorem setOff_ovf (v : Word) : (s.setOff v).ovf = s.ovf := rfl
@[simp] theorem setOff_life (v : Word) : (s.setOff v).life = s.life := rfl
@[simp] theorem setOff_cfg (v : Word) : (s.setOff v).cfg = s.cfg := rfl
@[simp] theorem setOff_log (v : Word) : (s.setOff v).log = s.log := rfl
@[simp] theorem setOff_warn (v : Word) : (s.setOff v).warn = s.warn := rfl
@[simp] theorem setOff_diag (v : Word) : (s.setOff v).diag = s.diag := rfl
@[simp] theorem setOff_dOut (v : Word) : (s.setOff v).dOut = s.dOut := rfl
@[simp] theorem setOff_file (v : Word) : (s.setOff v).file = s.file := rfl
@[simp] theorem setOff_inbox (v : Word) : (s.setOff v).inbox = s.inbox := rfl
@[simp] theorem setOff_env (v : Word) : (s.setOff v).env = s.env := rfl

/-! ### setRtc -/
@[simp] theorem setRtc_pos (v : Memory) : (s.setRtc v).pos = s.pos := rfl
@[simp] theorem setRtc_addr (v : Memory) : (s.setRtc v).addr = s.addr := rfl
@[simp] theorem setRtc_off (v : Memory) : (s.setRtc v).off = s.off := rfl
@[simp] theorem setRtc_rtc (v : Memory) : (s.setRtc v).rtc = v := rfl
@[simp] theorem setRtc_sram (v : Memory) : (s.setRtc v).sram = s.sram := rfl
@[simp] theorem setRtc_rom (v : Memory) : (s.setRtc v).rom = s.rom := rfl
@[simp] theorem setRtc_ubuf (v : Memory) : (s.setRtc v).ubuf = s.ubuf := rfl
@[simp] theorem setRtc_ovf (v : Memory) : (s.setRtc v).ovf = s.ovf := rfl
@[simp] theorem setRtc_life (v : Memory) : (s.setRtc v).life = s.life := rfl
@[simp] theorem setRtc_cfg (v : Memory) : (s.setRtc v).cfg = s.cfg := rfl
@[simp] theorem setRtc_log (v : Memory) : (s.setRtc v).log = s.log := rfl
@[simp] theorem setRtc_warn (v : Memory) : (s.setRtc v).warn = s.warn := rfl
@[simp] theorem setRtc_diag (v : Memory) : (s.setRtc v).diag = s.diag := rfl
@[simp] theorem setRtc_dOut (v : Memory) : (s.setRtc v).dOut = s.dOut := rfl
@[simp] theorem setRtc_file (v : Memory) : (s.setRtc v).file = s.file := rfl
@[simp] theorem setRtc_inbox (v : Memory) : (s.setRtc v).inbox = s.inbox := rfl
@[simp] theorem setRtc_env (v : Memory) : (s.setRtc v).env = s.env := rfl

/-! ### setSram -/
@[simp] theorem setSram_pos (v : Memory) : (s.setSram v).pos = s.pos := rfl
@[simp] theorem setSram_addr (v : Memory) : (s.setSram v).addr = s.addr := rfl
@[simp] theorem setSram_off (v : Memory) : (s.setSram v).off = s.off := rfl
@[simp] theorem setSram_rtc (v : Memory) : (s.setSram v).rtc = s.rtc := rfl
@[simp] theorem setSram_sram (v : Memory) : (s.setSram v).sram = v := rfl
@[simp] theorem setSram_rom (v : Memory) : (s.setSram v).rom = s.rom := rfl
@[simp] theorem setSram_ubuf (v : Memory) : (s.setSram v).ubuf = s.ubuf := rfl
@[simp] theorem setSram_ovf (v : Memory) : (s.setSram v).ovf = s.ovf := rfl
@[simp] theorem setSram_life (v : Memory) : (s.setSram v).life = s.life := rfl
@[simp] theorem setSram_cfg (v : Memory) : (s.setSram v).cfg = s.cfg := rfl
@[simp] theorem setSram_log (v : Memory) : (s.setSram v).log = s.log := rfl
@[simp] theorem setSram_warn (v : Memory) : (s.setSram v).warn = s.warn := rfl
@[simp] theorem setSram_diag (v : Memory) : (s.setSram v).diag = s.diag := rfl
@[simp] theorem setSram_dOut (v : Memory) : (s.setSram v).dOut = s.dOut := rfl
@[simp] theorem setSram_file (v : Memory) : (s.setSram v).file = s.file := rfl
@[simp] theorem setSram_inbox (v : Memory) : (s.setSram v).inbox = s.inbox := rfl
@[simp] theorem setSram_env (v : Memory) : (s.setSram v).env = s.env := rfl

/-! ### setRom -/
@[simp] theorem setRom_pos (v : Memory) : (s.setRom v).pos = s.pos := rfl
@[simp] theorem setRom_addr (v : Memory) : (s.setRom v).addr = s.addr := rfl
@[simp] theorem setRom_off (v : Memory) : (s.setRom v).off = s.off := rfl
@[simp] theorem setRom_rtc (v : Memory) : (s.setRom v).rtc = s.rtc := rfl
@[simp] theorem setRom_sram (v : Memory) : (s.setRom v).sram = s.sram := rfl
@[simp] theorem setRom_rom (v : Memory) : (s.setRom v).rom = v := rfl
@[simp] theorem setRom_ubuf (v : Memory) : (s.setRom v).ubuf = s.ubuf := rfl
@[simp] theorem setRom_ovf (v : Memory) : (s.setRom v).ovf = s.ovf := rfl
@[simp] theorem setRom_life (v : Memory) : (s.setRom v).life = s.life := rfl
@[simp] theorem setRom_cfg (v : Memory) : (s.setRom v).cfg = s.cfg := rfl
@[simp] theorem setRom_log (v : Memory) : (s.setRom v).log = s.log := rfl
@[simp] theorem setRom_warn (v : Memory) : (s.setRom v).warn = s.warn := rfl
@[simp] theorem setRom_diag (v : Memory) : (s.setRom v).diag = s.diag := rfl
@[simp] theorem setRom_dOut (v : Memory) : (s.setRom v).dOut = s.dOut := rfl
@[simp] theorem setRom_file (v : Memory) : (s.setRom v).file = s.file := rfl
@[simp] theorem setRom_inbox (v : Memory) : (s.setRom v).inbox = s.inbox := rfl
@[simp] theorem setRom_env (v : Memory) : (s.setRom v).env = s.env := rfl

/-! ### setUbuf -/
@[simp] theorem setUbuf_pos (v : List Byte) : (s.setUbuf v).pos = s.pos := rfl
@[simp] theorem setUbuf_addr (v : List Byte) : (s.setUbuf v).addr = s.addr := rfl
@[simp] theorem setUbuf_off (v : List Byte) : (s.setUbuf v).off = s.off := rfl
@[simp] theorem setUbuf_rtc (v : List Byte) : (s.setUbuf v).rtc = s.rtc := rfl
@[simp] theorem setUbuf_sram (v : List Byte) : (s.setUbuf v).sram = s.sram := rfl
@[simp] theorem setUbuf_rom (v : List Byte) : (s.setUbuf v).rom = s.rom := rfl
@[simp] theorem setUbuf_ubuf (v : List Byte) : (s.setUbuf v).ubuf = v := rfl
@[simp] theorem setUbuf_ovf (v : List Byte) : (s.setUbuf v).ovf = s.ovf := rfl
@[simp] theorem setUbuf_life (v : List Byte) : (s.setUbuf v).life = s.life := rfl
@[simp] theorem setUbuf_cfg (v : List Byte) : (s.setUbuf v).cfg = s.cfg := rfl
@[simp] theorem setUbuf_log (v : List Byte) : (s.setUbuf v).log = s.log := rfl
@[simp] theorem setUbuf_warn (v : List Byte) : (s.setUbuf v).warn = s.warn := rfl
@[simp] theorem setUbuf_diag (v : List Byte) : (s.setUbuf v).diag = s.diag := rfl
@[simp] theorem setUbuf_dOut (v : List Byte) : (s.setUbuf v).dOut = s.dOut := rfl
@[simp] theorem setUbuf_file (v : List Byte) : (s.setUbuf v).file = s.file := rfl
@[simp] theorem setUbuf_inbox (v : List Byte) : (s.setUbuf v).inbox = s.inbox := rfl
@[simp] theorem setUbuf_env (v : List Byte) : (s.setUbuf v).env = s.env := rfl

/-! ### setOvf -/
@[simp] theorem setOvf_pos : (s.setOvf).pos = s.pos := rfl
@[simp] theorem setOvf_addr : (s.setOvf).addr = s.addr := rfl
@[simp] theorem setOvf_off : (s.setOvf).off = s.off := rfl
@[simp] theorem setOvf_rtc : (s.setOvf).rtc = s.rtc := rfl
@[simp] theorem setOvf_sram : (s.setOvf).sram = s.sram := rfl
@[simp] theorem setOvf_rom : (s.setOvf).rom = s.rom := rfl
@[simp] theorem setOvf_ubuf : (s.setOvf).ubuf = s.ubuf := rfl
@[simp] theorem setOvf_ovf : (s.setOvf).ovf = true := rfl
@[simp] theorem setOvf_life : (s.setOvf).life = s.life := rfl
@[simp] theorem setOvf_cfg : (s.setOvf).cfg = s.cfg := rfl
@[simp] theorem setOvf_log : (s.setOvf).log = s.log := rfl
@[simp] theorem setOvf_warn : (s.setOvf).warn = s.warn := rfl
@[simp] theorem setOvf_diag : (s.setOvf).diag = s.diag := rfl
@[simp] theorem setOvf_dOut : (s.setOvf).dOut = s.dOut := rfl
@[simp] theorem setOvf_file : (s.setOvf).file = s.file := rfl
@[simp] theorem setOvf_inbox : (s.setOvf).inbox = s.inbox := rfl
@[simp] theorem setOvf_env : (s.setOvf).env = s.env := rfl

/-! ### setLife -/
@[simp] theorem setLife_pos (v : Life) : (s.setLife v).pos = s.pos := rfl
@[simp] theorem setLife_addr (v : Life) : (s.setLife v).addr = s.addr := rfl
@[simp] theorem setLife_off (v : Life) : (s.setLife v).off = s.off := rfl
@[simp] theorem setLife_rtc (v : Life) : (s.setLife v).rtc = s.rtc := rfl
@[simp] theorem setLife_sram (v : Life) : (s.setLife v).sram = s.sram := rfl
@[simp] theorem setLife_rom (v : Life) : (s.setLife v).rom = s.rom := rfl
@[simp] theorem setLife_ubuf (v : Life) : (s.setLife v).ubuf = s.ubuf := rfl
@[simp] theorem setLife_ovf (v : Life) : (s.setLife v).ovf = s.ovf := rfl
@[simp] theorem setLife_life (v : Life) : (s.setLife v).life = v := rfl
@[simp] theorem setLife_cfg (v : Life) : (s.setLife v).cfg = s.cfg := rfl
@[simp] theorem setLife_log (v : Life) : (s.setLife v).log = s.log := rfl
@[simp] theorem setLife_warn (v : Life) : (s.setLife v).warn = s.warn := rfl
@[simp] theorem setLife_diag (v : Life) : (s.setLife v).diag = s.diag := rfl
@[simp] theorem setLife_dOut (v : Life) : (s.setLife v).dOut = s.dOut := rfl
@[simp] theorem setLife_file (v : Life) : (s.setLife v).file = s.file := rfl
@[simp] theorem setLife_inbox (v : Life) : (s.setLife v).inbox = s.inbox := rfl
@[simp] theorem setLife_env (v : Life) : (s.setLife v).env = s.env := rfl

/-! ### setDOut -/
@[simp] theorem setDOut_pos (v : Byte) : (s.setDOut v).pos = s.pos := rfl
@[simp] theorem setDOut_addr (v : Byte) : (s.setDOut v).addr = s.addr := rfl
@[simp] theorem setDOut_off (v : Byte) : (s.setDOut v).off = s.off := rfl
@[simp] theorem setDOut_rtc (v : Byte) : (s.setDOut v).rtc = s.rtc := rfl
@[simp] theorem setDOut_sram (v : Byte) : (s.setDOut v).sram = s.sram := rfl
@[simp] theorem setDOut_rom (v : Byte) : (s.setDOut v).rom = s.rom := rfl
@[simp] theorem setDOut_ubuf (v : Byte) : (s.setDOut v).ubuf = s.ubuf := rfl
@[simp] theorem setDOut_ovf (v : Byte) : (s.setDOut v).ovf = s.ovf := rfl
@[simp] theorem setDOut_life (v : Byte) : (s.setDOut v).life = s.life := rfl
@[simp] theorem setDOut_cfg (v : Byte) : (s.setDOut v).cfg = s.cfg := rfl
@[simp] theorem setDOut_log (v : Byte) : (s.setDOut v).log = s.log := rfl
@[simp] theorem setDOut_warn (v : Byte) : (s.setDOut v).warn = s.warn := rfl
@[simp] theorem setDOut_diag (v : Byte) : (s.setDOut v).diag = s.diag := rfl
@[simp] theorem setDOut_dOut (v : Byte) : (s.setDOut v).dOut = some v := rfl
@[simp] theorem setDOut_file (v : Byte) : (s.setDOut v).file = s.file := rfl
@[simp] theorem setDOut_inbox (v : Byte) : (s.setDOut v).inbox = s.inbox := rfl
@[simp] theorem setDOut_env (v : Byte) : (s.setDOut v).env = s.env := rfl

/-! ### setFile -/
@[simp] theorem setFile_pos (v : Option (List Byte)) : (s.setFile v).pos = s.pos := rfl
@[simp] theorem setFile_addr (v : Option (List Byte)) : (s.setFile v).addr = s.addr := rfl
@[simp] theorem setFile_off (v : Option (List Byte)) : (s.setFile v).off = s.off := rfl
@[simp] theorem setFile_rtc (v : Option (List Byte)) : (s.setFile v).rtc = s.rtc := rfl
@[simp] theorem setFile_sram (v : Option (List Byte)) : (s.setFile v).sram = s.sram := rfl
@[simp] theorem setFile_rom (v : Option (List Byte)) : (s.setFile v).rom = s.rom := rfl
@[simp] theorem setFile_ubuf (v : Option (List Byte)) : (s.setFile v).ubuf = s.ubuf := rfl
@[simp] theorem setFile_ovf (v : Option (List Byte)) : (s.setFile v).ovf = s.ovf := rfl
@[simp] theorem setFile_life (v : Option (List Byte)) : (s.setFile v).life = s.life := rfl
@[simp] theorem setFile_cfg (v : Option (List Byte)) : (s.setFile v).cfg = s.cfg := rfl
@[simp] theorem setFile_log (v : Option (List Byte)) : (s.setFile v).log = s.log := rfl
@[simp] theorem setFile_warn (v : Option (List Byte)) : (s.setFile v).warn = s.warn := rfl
@[simp] theorem setFile_diag (v : Option (List Byte)) : (s.setFile v).diag = s.diag := rfl
@[simp] theorem setFile_dOut (v : Option (List Byte)) : (s.setFile v).dOut = s.dOut := rfl
@[simp] theorem setFile_file (v : Option (List Byte)) : (s.setFile v).file = v := rfl
@[simp] theorem setFile_inbox (v : Option (List Byte)) : (s.setFile v).inbox = s.inbox := rfl
@[simp] theorem setFile_env (v : Option (List Byte)) : (s.setFile v).env = s.env := rfl

/-! ### setInbox -/
@[simp] theorem setInbox_pos (v : List BusOp) : (s.setInbox v).pos = s.pos := rfl
@[simp] theorem setInbox_addr (v : List BusOp) : (s.setInbox v).addr = s.addr := rfl
@[simp] theorem setInbox_off (v : List BusOp) : (s.setInbox v).off = s.off := rfl
@[simp] theorem setInbox_rtc (v : List BusOp) : (s.setInbox v).rtc = s.rtc := rfl
@[simp] theorem setInbox_sram (v : List BusOp) : (s.setInbox v).sram = s.sram := rfl
@[simp] theorem setInbox_rom (v : List BusOp) : (s.setInbox v).rom = s.rom := rfl
@[simp] theorem setInbox_ubuf (v : List BusOp) : (s.setInbox v).ubuf = s.ubuf := rfl
@[simp] theorem setInbox_ovf (v : List BusOp) : (s.setInbox v).ovf = s.ovf := rfl
@[simp] theorem setInbox_life (v : List BusOp) : (s.setInbox v).life = s.life := rfl
@[simp] theorem setInbox_cfg (v : List BusOp) : (s.setInbox v).cfg = s.cfg := rfl
@[simp] theorem setInbox_log (v : List BusOp) : (s.setInbox v).log = s.log := rfl
@[simp] theorem setInbox_warn (v : List BusOp) : (s.setInbox v).warn = s.warn := rfl
@[simp] theorem setInbox_diag (v : List BusOp) : (s.setInbox v).diag = s.diag := rfl
@[simp] theorem setInbox_dOut (v : List BusOp) : (s.setInbox v).dOut = s.dOut := rfl
@[simp] theorem setInbox_file (v : List BusOp) : (s.setInbox v).file = s.file := rfl
@[simp] theorem setInbox_inbox (v : List BusOp) : (s.setInbox v).inbox = v := rfl
@[simp] theorem setInbox_env (v : List BusOp) : (s.setInbox v).env = s.env := rfl

/-! ### setEnv -/
@[simp] theorem setEnv_pos (v : Environment) : (s.setEnv v).pos = s.pos := rfl
@[simp] theorem setEnv_addr (v : Environment) : (s.setEnv v).addr = s.addr := rfl
@[simp] theorem setEnv_off (v : Environment) : (s.setEnv v).off = s.off := rfl
@[simp] theorem setEnv_rtc (v : Environment) : (s.setEnv v).rtc = s.rtc := rfl
@[simp] theorem setEnv_sram (v : Environment) : (s.setEnv v).sram = s.sram := rfl
@[simp] theorem setEnv_rom (v : Environment) : (s.setEnv v).rom = s.rom := rfl
@[simp] theorem setEnv_ubuf (v : Environment) : (s.setEnv v).ubuf = s.ubuf := rfl
@[simp] theorem setEnv_ovf (v : Environment) : (s.setEnv v).ovf = s.ovf := rfl
@[simp] theorem setEnv_life (v : Environment) : (s.setEnv v).life = s.life := rfl
@[simp] theorem setEnv_cfg (v : Environment) : (s.setEnv v).cfg = s.cfg := rfl
@[simp] theorem setEnv_log (v : Environment) : (s.setEnv v).log = s.log := rfl
@[simp] theorem setEnv_warn (v : Environment) : (s.setEnv v).warn = s.warn := rfl
@[simp] theorem setEnv_diag (v : Environment) : (s.setEnv v).diag = s.diag := rfl
@[simp] theorem setEnv_dOut (v : Environment) : (s.setEnv v).dOut = s.dOut := rfl
@[simp] theorem setEnv_file (v : Environment) : (s.setEnv v).file = s.file := rfl
@[simp] theorem setEnv_inbox (v : Environment) : (s.setEnv v).inbox = s.inbox := rfl
@[simp] theorem setEnv_env (v : Environment) : (s.setEnv v).env = v := rfl

/-! ### emitLog -/
@[simp] theorem emitLog_pos (v : List Byte) : (s.emitLog v).pos = s.pos := rfl
@[simp] theorem emitLog_addr (v : List Byte) : (s.emitLog v).addr = s.addr := rfl
@[simp] theorem emitLog_off (v : List Byte) : (s.emitLog v).off = s.off := rfl
@[simp] theorem emitLog_rtc (v : List Byte) : (s.emitLog v).rtc = s.rtc := rfl
@[simp] theorem emitLog_sram (v : List Byte) : (s.emitLog v).sram = s.sram := rfl
@[simp] theorem emitLog_rom (v : List Byte) : (s.emitLog v).rom = s.rom := rfl
@[simp] theorem emitLog_ubuf (v : List Byte) : (s.emitLog v).ubuf = s.ubuf := rfl
@[simp] theorem emitLog_ovf (v : List Byte) : (s.emitLog v).ovf = s.ovf := rfl
@[simp] theorem emitLog_life (v : List Byte) : (s.emitLog v).life = s.life := rfl
@[simp] theorem emitLog_cfg (v : List Byte) : (s.emitLog v).cfg = s.cfg := rfl
@[simp] theorem emitLog_log (v : List Byte) : (s.emitLog v).log = s.log ++ [v] := rfl
@[simp] theorem emitLog_warn (v : List Byte) : (s.emitLog v).warn = s.warn := rfl
@[simp] theorem emitLog_diag (v : List Byte) : (s.emitLog v).diag = s.diag := rfl
@[simp] theorem emitLog_dOut (v : List Byte) : (s.emitLog v).dOut = s.dOut := rfl
@[simp] theorem emitLog_file (v : List Byte) : (s.emitLog v).file = s.file := rfl
@[simp] theorem emitLog_inbox (v : List Byte) : (s.emitLog v).inbox = s.inbox := rfl
@[simp] theorem emitLog_env (v : List Byte) : (s.emitLog v).env = s.env := rfl

/-! ### emitWarn -/
@[simp] theorem emitWarn_pos (v : List Warning) : (s.emitWarn v).pos = s.pos := rfl
@[simp] theorem emitWarn_addr (v : List Warning) : (s.emitWarn v).addr = s.addr := rfl
@[simp] theorem emitWarn_off (v : List Warning) : (s.emitWarn v).off = s.off := rfl
@[simp] theorem emitWarn_rtc (v : List Warning) : (s.emitWarn v).rtc = s.rtc := rfl
@[simp] theorem emitWarn_sram (v : List Warning) : (s.emitWarn v).sram = s.sram := rfl
@[simp] theorem emitWarn_rom (v : List Warning) : (s.emitWarn v).rom = s.rom := rfl
@[simp] theorem emitWarn_ubuf (v : List Warning) : (s.emitWarn v).ubuf = s.ubuf := rfl
@[simp] theorem emitWarn_ovf (v : List Warning) : (s.emitWarn v).ovf = s.ovf := rfl
@[simp] theorem emitWarn_life (v : List Warning) : (s.emitWarn v).life = s.life := rfl
@[simp] theorem emitWarn_cfg (v : List Warning) : (s.emitWarn v).cfg = s.cfg := rfl
@[simp] theorem emitWarn_log (v : List Warning) : (s.emitWarn v).log = s.log := rfl
@[simp] theorem emitWarn_warn (v : List Warning) : (s.emitWarn v).warn = s.warn ++ v := rfl
@[simp] theorem emitWarn_diag (v : List Warning) : (s.emitWarn v).diag = s.diag := rfl
@[simp] theorem emitWarn_dOut (v : List Warning) : (s.emitWarn v).dOut = s.dOut := rfl
@[simp] theorem emitWarn_file (v : List Warning) : (s.emitWarn v).file = s.file := rfl
@[simp] theorem emitWarn_inbox (v : List Warning) : (s.emitWarn v).inbox = s.inbox := rfl
@[simp] theorem emitWarn_env (v : List Warning) : (s.emitWarn v).env = s.env := rfl

/-! ### emitDiag -/
@[simp] theorem emitDiag_pos (v : Diagnostic) : (s.emitDiag v).pos = s.pos := rfl
@[simp] theorem emitDiag_addr (v : Diagnostic) : (s.emitDiag v).addr = s.addr := rfl
@[simp] theorem emitDiag_off (v : Diagnostic) : (s.emitDiag v).off = s.off := rfl
@[simp] theorem emitDiag_rtc (v : Diagnostic) : (s.emitDiag v).rtc = s.rtc := rfl
@[simp] theorem emitDiag_sram (v : Diagnostic) : (s.emitDiag v).sram = s.sram := rfl
@[simp] theorem emitDiag_rom (v : Diagnostic) : (s.emitDiag v).rom = s.rom := rfl
@[simp] theorem emitDiag_ubuf (v : Diagnostic) : (s.emitDiag v).ubuf = s.ubuf := rfl
@[simp] theorem emitDiag_ovf (v : Diagnostic) : (s.emitDiag v).ovf = s.ovf := rfl
@[simp] theorem emitDiag_life (v : Diagnostic) : (s.emitDiag v).life = s.life := rfl
@[simp] theorem emitDiag_cfg (v : Diagnostic) : (s.emitDiag v).cfg = s.cfg := rfl
@[simp] theorem emitDiag_log (v : Diagnostic) : (s.emitDiag v).log = s.log := rfl
@[simp] theorem emitDiag_warn (v : Diagnostic) : (s.emitDiag v).warn = s.warn := rfl
@[simp] theorem emitDiag_diag (v : Diagnostic) : (s.emitDiag v).diag = s.diag ++ diagnosticsOf s.cfg v := rfl
@[simp] theorem emitDiag_dOut (v : Diagnostic) : (s.emitDiag v).dOut = s.dOut := rfl
@[simp] theorem emitDiag_file (v : Diagnostic) : (s.emitDiag v).file = s.file := rfl
@[simp] theorem emitDiag_inbox (v : Diagnostic) : (s.emitDiag v).inbox = s.inbox := rfl
@[simp] theorem emitDiag_env (v : Diagnostic) : (s.emitDiag v).env = s.env := rfl

/-! ### Composed updates -/

theorem advance_eq : s.advance = { s with pos := s.pos + 1 } := rfl
theorem endData_eq : s.endData = { s with off := s.off + 1, pos := s.pos + 1 } := rfl
theorem addressByte_eq (d : Byte) :
    s.addressByte d = { s with addr := (s.addr <<< 8) ||| d.setWidth 32, dOut := some idleByte, off := 0 } := rfl
theorem rtcRefresh_eq (t : Int) : s.rtcRefresh t = { s with rtc := rtcBytes (rtcValue s.cfg t) s.rtc } := rfl
theorem emitDiag_eq (e : Diagnostic) : s.emitDiag e = { s with diag := s.diag ++ diagnosticsOf s.cfg e } := rfl
/-- A diagnostic build emits the event and a release build nothing (10_state.md R31). -/
theorem diagnosticsOf_diag {c : Config} (h : c.diagBuild = true) (e : Diagnostic) : diagnosticsOf c e = [e] := by
  simp [diagnosticsOf, h]
theorem diagnosticsOf_release {c : Config} (h : c.diagBuild = false) (e : Diagnostic) : diagnosticsOf c e = [] := by
  simp [diagnosticsOf, h]
theorem diagnosticsOf_length (c : Config) (e : Diagnostic) : (diagnosticsOf c e).length ≤ 1 := by
  unfold diagnosticsOf; split <;> simp
theorem latch_eq :
    s.latch = { s with
      env := s.env.takeClock.2
      rtc := rtcBytes (rtcValue s.cfg s.env.takeClock.1) s.rtc
      diag := s.diag ++ diagnosticsOf s.cfg (.classify s.addr (regionOf s.addr)) } := rfl
theorem raiseOverrun_eq (d : Byte) :
    s.raiseOverrun d = { s with ovf := true, warn := s.warn ++ [.regionOverrun s.addr s.off], dOut := some d } := rfl

end Sys2Proof.Machine
end

