-- ==== Sys2Proof/Laws/Ops.lean ====
section
/-! SUPPORT. For each shared operation, what it can do, said once. -/

namespace Sys2Proof.Machine

/-! ### The lifetime guard -/

theorem whenLive_live {s : State} (h : s.life = .constructed) (f : State → State) : s.whenLive f = .next (f s) := by
  simp [State.whenLive, h]

theorem whenLive_dead {s : State} (h : s.life ≠ .constructed) (f : State → State) :
    s.whenLive f = .refused .notConstructed := by
  simp [State.whenLive, h]

/-- All a guarded operation can do. -/
theorem whenLive_next_iff {s t : State} {f : State → State} :
    s.whenLive f = .next t ↔ s.life = .constructed ∧ t = f s := by
  by_cases h : s.life = .constructed
  · simp [whenLive_live h, h, eq_comm]
  · simp [whenLive_dead h, h]

/-! ### The bound check -/

theorem bounded_inside {s : State} {size base : Nat} (h : s.index base < size) (d : Byte)
    (f : Nat → State → State) : s.bounded size base d f = f (s.index base) s := by
  simp [State.bounded, h]

theorem bounded_outside {s : State} {size base : Nat} (h : size ≤ s.index base) (d : Byte)
    (f : Nat → State → State) : s.bounded size base d f = s.raiseOverrun d := by
  simp [State.bounded, Nat.not_lt.2 h]

/-- All a bound-checked access can do. -/
theorem bounded_cases (s : State) (size base : Nat) (d : Byte) (f : Nat → State → State) :
    (s.index base < size ∧ s.bounded size base d f = f (s.index base) s) ∨
    (size ≤ s.index base ∧ s.bounded size base d f = s.raiseOverrun d) := by
  obtain h | h := Nat.lt_or_ge (s.index base) size
  · exact .inl ⟨h, bounded_inside h d f⟩
  · exact .inr ⟨h, bounded_outside h d f⟩

/-! ### The line buffer -/

theorem uartPut_terminator (s : State) :
    s.uartPut 0x0D#8 = { s with log := s.log ++ [s.ubuf], ubuf := [] } := by
  simp [State.uartPut, uartTerminator, State.emitLog, State.setUbuf]

theorem uartPut_full {s : State} {d : Byte} (hd : d ≠ 0x0D#8) (h : s.ubuf.length + 1 = 256) :
    s.uartPut d = { s with log := s.log ++ [s.ubuf ++ [d]], ubuf := [] } := by
  simp [State.uartPut, uartTerminator, uartCapacity, hd, h, State.emitLog, State.setUbuf]

theorem uartPut_room {s : State} {d : Byte} (hd : d ≠ 0x0D#8) (h : s.ubuf.length + 1 ≠ 256) :
    s.uartPut d = { s with ubuf := s.ubuf ++ [d] } := by
  simp [State.uartPut, uartTerminator, uartCapacity, hd, h, State.setUbuf]

/-- All a UART write does to the buffer and the log. -/
theorem uartPut_cases (s : State) (d : Byte) :
    (d = 0x0D#8 ∧ s.uartPut d = { s with log := s.log ++ [s.ubuf], ubuf := [] }) ∨
    (d ≠ 0x0D#8 ∧ s.ubuf.length + 1 = 256 ∧
      s.uartPut d = { s with log := s.log ++ [s.ubuf ++ [d]], ubuf := [] }) ∨
    (d ≠ 0x0D#8 ∧ s.ubuf.length + 1 ≠ 256 ∧ s.uartPut d = { s with ubuf := s.ubuf ++ [d] }) := by
  by_cases hd : d = 0x0D#8
  · subst hd; exact .inl ⟨rfl, uartPut_terminator s⟩
  · by_cases h : s.ubuf.length + 1 = 256
    · exact .inr (.inl ⟨hd, h, uartPut_full hd h⟩)
    · exact .inr (.inr ⟨hd, h, uartPut_room hd h⟩)

/-- What a UART write leaves alone: everything but the buffer and the log. -/
theorem uartPut_frame (s : State) (d : Byte) :
    s.uartPut d = { s with log := (s.uartPut d).log, ubuf := (s.uartPut d).ubuf } := by
  obtain ⟨-, h⟩ | ⟨-, -, h⟩ | ⟨-, -, h⟩ := uartPut_cases s d <;> simp [h]

/-! ### The save at teardown -/

/-- All the save step does. -/
theorem sramSave_cases (s : State) :
    (s.env.takeSramSave.1 = .ok ∧
      s.sramSave = { s with env := s.env.takeSramSave.2, file := some (s.sram.firstBytes 64) }) ∨
    (s.env.takeSramSave.1 = .fail ∧
      s.sramSave = { s with env := s.env.takeSramSave.2, warn := s.warn ++ [.persistenceWriteFailure] }) := by
  cases h : s.env.takeSramSave.1
  · exact .inl ⟨rfl, by simp [State.sramSave, h, State.setEnv, State.setFile, sramSize]⟩
  · exact .inr ⟨rfl, by simp [State.sramSave, h, State.setEnv, State.emitWarn]⟩

/-! ### Scripted draws -/

theorem takeClock_scripted {e : Environment} {t : Int} {ts : List Int} (h : e.clock = t :: ts) :
    e.takeClock = (t, { e with clock := ts }) := by
  simp [Environment.takeClock, h]

theorem takeConfig_scripted {e : Environment} {c : Config} {cs : List Config} (h : e.configs = c :: cs) :
    e.takeConfig = (c, { e with configs := cs }) := by
  simp [Environment.takeConfig, h]

/-! ### The RTC -/

@[simp] theorem rtcBytes_fill (v : Word) (m : Memory) : (rtcBytes v m).fill = m.fill := by simp [rtcBytes]

theorem rtcBytes_wf (v : Word) {m : Memory} (h : m.wf) : (rtcBytes v m).wf :=
  write_wf (write_wf (write_wf (write_wf h _ _) _ _) _ _) _ _

theorem rtcBytes_within (v : Word) {m : Memory} (h : m.within rtcSize) : (rtcBytes v m).within rtcSize :=
  write_within (write_within (write_within (write_within h (by decide) _) (by decide) _) (by decide) _) (by decide) _

/-- What the four bytes read as after a refresh, whatever they held (43_rtc.md R171). -/
theorem rtcBytes_read (v : Word) (m : Memory) :
    (rtcBytes v m).read 0 = byte3 v ∧ (rtcBytes v m).read 1 = byte2 v ∧
    (rtcBytes v m).read 2 = byte1 v ∧ (rtcBytes v m).read 3 = byte0 v := by
  simp [rtcBytes, read_write]

/-- The four bytes of a word make up the word (00_scope.md R9). -/
theorem be32_bytes (v : Word) : be32 (byte3 v) (byte2 v) (byte1 v) (byte0 v) = v := by
  apply BitVec.eq_of_getLsbD_eq
  intro i hi
  simp only [be32, byte3, byte2, byte1, byte0, BitVec.getLsbD_append, BitVec.getLsbD_extractLsb']
  split_ifs
  · simp [*]
  · simp [*, show 8 + (i - 8) = i by omega]
  · simp [*, show 16 + (i - 8 - 8) = i by omega]
  · simp [show i - 8 - 8 - 8 < 8 by omega, show 24 + (i - 8 - 8 - 8) = i by omega]

end Sys2Proof.Machine
end

