-- ==== Sys2Proof/Laws/Construction.lean ====
section
/-! SUPPORT. What CONSTRUCT builds: the configuration check in the spec's words, the ROM image and the SRAM contents. -/

namespace Sys2Proof.Machine

theorem romSizeValid_iff (n : Nat) : romSizeValid n = true ↔ ∃ k, k < 18 ∧ n = 2 ^ (6 + k) := by
  simp [romSizeValid]

/-- The constraints of 70_reset_and_hazards.md R261 that `configValid` checks, as one conjunction. -/
theorem configValid_iff (c : Config) :
    configValid c = true ↔
      (∃ k, k < 18 ∧ c.romSize = 2 ^ (6 + k)) ∧ c.versionString.length = 46 ∧
      (46 ≤ c.fontAOffset ∧ c.fontAOffset < c.romSize) ∧ (46 ≤ c.fontBOffset ∧ c.fontBOffset < c.romSize) ∧
      c.biasOffset ≤ 60 ∧ c.sramTemplate.length = 64 := by
  simp only [configValid, fontOffsetValid, Bool.and_eq_true, decide_eq_true_eq, beq_iff_eq, romSizeValid_iff,
    versionLength, sramSize]
  constructor
  · rintro ⟨⟨⟨⟨⟨⟨hr, hv⟩, -⟩, ha⟩, hb⟩, ho⟩, ht⟩
    exact ⟨hr, hv, hv ▸ ha, hv ▸ hb, ho, ht⟩
  · rintro ⟨hr, hv, ha, hb, ho, ht⟩
    exact ⟨⟨⟨⟨⟨⟨hr, hv⟩, by rw [hv]; omega⟩, hv.symm ▸ ha⟩, hv.symm ▸ hb⟩, ho⟩, ht⟩

theorem romSize_bounds {c : Config} (h : configValid c = true) : 64 ≤ c.romSize ∧ c.romSize ≤ 2 ^ 23 := by
  obtain ⟨⟨k, hk, hr⟩, -⟩ := (configValid_iff c).1 h
  rw [hr]
  exact ⟨Nat.pow_le_pow_right (n := 2) (i := 6) (by decide) (by omega), Nat.pow_le_pow_right (by decide) (by omega)⟩

/-- The build's own configuration meets every constraint, whatever its free values are. -/
theorem implementation_valid : configValid Config.implementation = true := by
  rw [configValid_iff]
  have hb := Config.freeRomScale.isLt
  have hp : 64 ≤ 2 ^ (6 + Config.freeRomScale.val) := Nat.pow_le_pow_right (n := 2) (i := 6) (by decide) (by omega)
  have ha := Nat.mod_lt Config.freeFontAOffset (show 2 ^ (6 + Config.freeRomScale.val) - 46 > 0 by omega)
  have hc := Nat.mod_lt Config.freeFontBOffset (show 2 ^ (6 + Config.freeRomScale.val) - 46 > 0 by omega)
  have hd := Config.freeBiasOffset.isLt
  refine ⟨⟨_, hb, rfl⟩, ?_, ⟨?_, ?_⟩, ⟨?_, ?_⟩, ?_, ?_⟩ <;> simp [Config.implementation] <;> omega

/-! ### The ROM image -/

/-- All a font placement can do (44_rom.md R191). -/
theorem fontPlace_cases (n : Nat) (k : Font) (o : Nat) (r : LoadAnswer) (m : Memory) :
    (∃ blob, r = .ok blob ∧ o + blob.length ≤ n ∧ fontPlace n k o r m = (m.writeAll o blob, [])) ∨
    ((∀ blob, r = .ok blob → n < o + blob.length) ∧ fontPlace n k o r m = (m, [.assetLoad k])) := by
  cases r with
  | fail => exact .inr ⟨by simp, rfl⟩
  | ok blob =>
    by_cases h : o + blob.length ≤ n
    · exact .inl ⟨blob, rfl, h, by simp [fontPlace, h]⟩
    · exact .inr ⟨by rintro b ⟨⟩; omega, by simp [fontPlace, h]⟩

@[simp] theorem fontPlace_fill (n : Nat) (k : Font) (o : Nat) (r : LoadAnswer) (m : Memory) :
    (fontPlace n k o r m).1.fill = m.fill := by
  obtain ⟨b, -, -, h⟩ | ⟨-, h⟩ := fontPlace_cases n k o r m <;> simp [h]

theorem fontPlace_wf {n : Nat} {k : Font} {o : Nat} {r : LoadAnswer} {m : Memory} (hm : m.wf) :
    (fontPlace n k o r m).1.wf := by
  obtain ⟨b, -, -, h⟩ | ⟨-, h⟩ := fontPlace_cases n k o r m <;> rw [h]
  · exact writeAll_wf hm _ _
  · exact hm

theorem fontPlace_within {n : Nat} {k : Font} {o : Nat} {r : LoadAnswer} {m : Memory} (hm : m.within n) :
    (fontPlace n k o r m).1.within n := by
  obtain ⟨b, -, hb, h⟩ | ⟨-, h⟩ := fontPlace_cases n k o r m <;> rw [h]
  · exact writeAll_within hm hb
  · exact hm

/-- A font leaves every byte below its offset alone. -/
theorem fontPlace_read_below {n : Nat} {k : Font} {o : Nat} {r : LoadAnswer} {m : Memory} {j : Nat} (hj : j < o) :
    (fontPlace n k o r m).1.read j = m.read j := by
  obtain ⟨b, -, -, h⟩ | ⟨-, h⟩ := fontPlace_cases n k o r m <;> simp [h, read_writeAll_below _ _ hj]

@[simp] theorem romBuild_fill (c : Config) (a b : LoadAnswer) : (romBuild c a b).1.fill = c.romFill := by
  simp [romBuild, romText]

theorem romBuild_wf (c : Config) (a b : LoadAnswer) : (romBuild c a b).1.wf :=
  fontPlace_wf (fontPlace_wf (writeAll_wf (blank_wf _) _ _))

theorem romBuild_within {c : Config} (h : configValid c = true) (a b : LoadAnswer) :
    (romBuild c a b).1.within c.romSize := by
  have hv := ((configValid_iff c).1 h).2.1
  have hs := (romSize_bounds h).1
  exact fontPlace_within (fontPlace_within (writeAll_within (blank_within _ _) (by omega)))

/-- The version string stands at offset 0, whatever the fonts are (44_rom.md R190, R196). -/
theorem romBuild_read_version {c : Config} (h : configValid c = true) (a b : LoadAnswer) {k : Nat} (hk : k < 46) :
    (romBuild c a b).1.read k = c.versionString.getD k c.romFill := by
  obtain ⟨-, hv, ⟨ha, -⟩, ⟨hb, -⟩, -, -⟩ := (configValid_iff c).1 h
  simp [romBuild, romText, fontPlace_read_below (show k < c.fontBOffset by omega),
    fontPlace_read_below (show k < c.fontAOffset by omega), read_writeAll]

/-! ### The SRAM contents -/

@[simp] theorem sramBuild_fill (c : Config) (r : LoadAnswer) : (sramBuild c r).1.fill = 0#8 := by
  cases r with
  | fail => simp [sramBuild, sramLoad]
  | ok bytes => simp only [sramBuild, sramLoad, write_fill]; split <;> simp

theorem sramBuild_wf (c : Config) (r : LoadAnswer) : (sramBuild c r).1.wf := by
  have h : ∀ vs, ((Memory.blank 0).writeAll 0 vs).wf := fun vs => writeAll_wf (blank_wf _) _ _
  refine write_wf ?_ _ _
  cases r with
  | fail => exact h _
  | ok bytes => simp only [sramLoad]; split <;> exact h _

theorem sramBuild_within {c : Config} (h : configValid c = true) (r : LoadAnswer) :
    (sramBuild c r).1.within sramSize := by
  have ht : c.sramTemplate.length = 64 := ((configValid_iff c).1 h).2.2.2.2.2
  refine write_within ?_ (by decide) _
  cases r with
  | fail => exact writeAll_within (blank_within _ _) (by simp [ht, sramSize])
  | ok bytes =>
    simp only [sramLoad]
    split
    · exact writeAll_within (blank_within _ _) (by simp)
    · exact writeAll_within (blank_within _ _) (by simp [ht, sramSize])

/-- What the SRAM holds after construction: LANG at 0x12, else the source's byte (42_sram.md R151, R152). -/
theorem sramBuild_read (c : Config) (r : LoadAnswer) (k : Nat) :
    (sramBuild c r).1.read k = if k = 0x12 then c.lang else (sramLoad c r).1.read k := by
  simp [sramBuild, read_write, langIndex]

theorem sramLoad_ok {c : Config} {bytes : List Byte} (h : 64 ≤ bytes.length) :
    sramLoad c (.ok bytes) = ((Memory.blank 0).writeAll 0 (bytes.take 64), []) := by
  simp [sramLoad, sramSize, h]

theorem sramLoad_short {c : Config} {bytes : List Byte} (h : bytes.length < 64) :
    sramLoad c (.ok bytes) = ((Memory.blank 0).writeAll 0 c.sramTemplate, [.configLoadFallback]) := by
  simp [sramLoad, sramSize, Nat.not_le.2 h]

/-! ### Reset -/

/-- The memories of the reset state are in canonical form. -/
theorem reset_memories_wf : State.reset.rom.wf ∧ State.reset.sram.wf ∧ State.reset.rtc.wf :=
  ⟨romBuild_wf _ _ _, sramBuild_wf _ _, blank_wf _⟩

end Sys2Proof.Machine
end

