-- ==== Sys2Proof/Laws/Decode.lean ====
section
/-! SUPPORT. The decoder's masks as fields, and the fields of each composed address word: what the encoder writes, read
back field by field. -/

namespace Sys2Proof

theorem romMask_bits (i : Nat) (hi : i < 32) : BitVec.getLsbD 0x60000000#32 i = decide (29 ≤ i ∧ i < 31) := by
  interval_cases i <;> rfl
theorem patternMask_bits (i : Nat) (hi : i < 32) : BitVec.getLsbD 0x7FFFFF00#32 i = decide (8 ≤ i ∧ i < 31) := by
  interval_cases i <;> rfl

/-- The ROM class mask tests bits 30:29 (30_encoding.md R73). -/
theorem romClass_iff (a : Word) : a &&& 0x60000000#32 = 0#32 ↔ a.extractLsb' 29 2 = 0#2 := by
  constructor
  · intro h
    apply BitVec.eq_of_getLsbD_eq
    intro i hi
    have := congrArg (fun v => BitVec.getLsbD v (29 + i)) h
    simpa [romMask_bits _ (show 29 + i < 32 by omega), hi, show 29 + i < 31 by omega] using this
  · intro h
    apply BitVec.eq_of_getLsbD_eq
    intro i hi
    rw [BitVec.getLsbD_and, romMask_bits i hi]
    by_cases hb : 29 ≤ i ∧ i < 31
    · have := congrArg (fun v => BitVec.getLsbD v (i - 29)) h
      simp [show i - 29 < 2 by omega, show 29 + (i - 29) = i by omega] at this
      simp [this]
    · simp [hb]

/-- The pattern mask tests bits 30:8 (30_encoding.md R75 to R77). -/
theorem pattern_iff (a : Word) (p : BitVec 23) :
    a &&& 0x7FFFFF00#32 = (p.setWidth 32) <<< 8 ↔ a.extractLsb' 8 23 = p := by
  constructor
  · intro h
    apply BitVec.eq_of_getLsbD_eq
    intro i hi
    have := congrArg (fun v => BitVec.getLsbD v (8 + i)) h
    rw [BitVec.getLsbD_and, patternMask_bits _ (show 8 + i < 32 by omega)] at this
    simpa [hi, show 8 + i < 31 by omega, show 8 + i < 32 by omega, show i < 32 by omega] using this
  · rintro rfl
    apply BitVec.eq_of_getLsbD_eq
    intro i hi
    rw [BitVec.getLsbD_and, patternMask_bits i hi]
    by_cases hb : 8 ≤ i ∧ i < 31
    · simp [hb, hi, show i - 8 < 23 by omega, show 8 + (i - 8) = i by omega, show ¬ i < 8 by omega]
    · simp only [hb]
      by_cases h8 : i < 8
      · simp [h8]
      · simp [show ¬ i - 8 < 23 by omega]

/-- The decode table by fields. -/
theorem regionOf_eq (a : Word) : regionOf a =
    if a.extractLsb' 29 2 = 0#2 then .rom
    else if a.extractLsb' 8 23 = 0x200000#23 then .rtc
    else if a.extractLsb' 8 23 = 0x200001#23 then .sram
    else if a.extractLsb' 8 23 = 0x200100#23 then .uart
    else .illegal := by
  simp only [regionOf, romClass_iff, ← pattern_iff]
  rfl


theorem rom_word_fields (D : BitVec 3) (i : BitVec 23) (x : BitVec 6) :
    (D ++ i ++ x : Word).extractLsb' 6 23 = i ∧ (D ++ i ++ x : Word).extractLsb' 0 6 = x ∧
    (D ++ i ++ x : Word).extractLsb' 29 2 = D.extractLsb' 0 2 ∧ isWrite (D ++ i ++ x : Word) = D.getLsbD 2 := by
  refine ⟨?_, ?_, ?_, by simp only [isWrite, BitVec.getLsbD_append]; simp⟩ <;> apply BitVec.eq_of_getLsbD_eq <;> intro k hk <;>
    simp only [BitVec.getLsbD_extractLsb', BitVec.getLsbD_append, hk, decide_true, Bool.true_and]
  · simp [show ¬ 6 + k < 6 by omega, hk]
  · simp [hk]
  · simp [show ¬ 29 + k < 6 by omega, show ¬ 29 + k - 6 < 23 by omega, show 29 + k - 6 - 23 = k by omega]

theorem word_fields_6_2 (p : BitVec 24) (x : BitVec 6) (b : BitVec 2) :
    (p ++ x ++ b : Word).extractLsb' 2 6 = x ∧ (p ++ x ++ b : Word).extractLsb' 0 2 = b ∧
    (p ++ x ++ b : Word).extractLsb' 8 23 = p.extractLsb' 0 23 ∧
    (p ++ x ++ b : Word).extractLsb' 29 2 = p.extractLsb' 21 2 ∧ isWrite (p ++ x ++ b : Word) = p.getLsbD 23 := by
  refine ⟨?_, ?_, ?_, ?_, by simp only [isWrite, BitVec.getLsbD_append]; simp⟩ <;> apply BitVec.eq_of_getLsbD_eq <;> intro k hk <;>
    simp only [BitVec.getLsbD_extractLsb', BitVec.getLsbD_append, hk, decide_true, Bool.true_and]
  · simp [show ¬ 2 + k < 2 by omega, hk]
  · simp [hk]
  · simp [show ¬ 8 + k < 2 by omega, show ¬ 8 + k - 2 < 6 by omega, show 8 + k - 2 - 6 = k by omega]
  · simp [show ¬ 29 + k < 2 by omega, show ¬ 29 + k - 2 < 6 by omega, show 29 + k - 2 - 6 = 21 + k by omega]

theorem word_fields_2_6 (p : BitVec 24) (x : BitVec 2) (b : BitVec 6) :
    (p ++ x ++ b : Word).extractLsb' 6 2 = x ∧ (p ++ x ++ b : Word).extractLsb' 0 6 = b ∧
    (p ++ x ++ b : Word).extractLsb' 8 23 = p.extractLsb' 0 23 ∧
    (p ++ x ++ b : Word).extractLsb' 29 2 = p.extractLsb' 21 2 ∧ isWrite (p ++ x ++ b : Word) = p.getLsbD 23 := by
  refine ⟨?_, ?_, ?_, ?_, by simp only [isWrite, BitVec.getLsbD_append]; simp⟩ <;> apply BitVec.eq_of_getLsbD_eq <;> intro k hk <;>
    simp only [BitVec.getLsbD_extractLsb', BitVec.getLsbD_append, hk, decide_true, Bool.true_and]
  · simp [show ¬ 6 + k < 6 by omega, hk]
  · simp [hk]
  · simp [show ¬ 8 + k < 6 by omega, show ¬ 8 + k - 6 < 2 by omega, show 8 + k - 6 - 2 = k by omega]
  · simp [show ¬ 29 + k < 6 by omega, show ¬ 29 + k - 6 < 2 by omega, show 29 + k - 6 - 2 = 21 + k by omega]

theorem word_fields_8 (p : BitVec 24) (x : BitVec 8) :
    (p ++ x : Word).extractLsb' 0 8 = x ∧ (p ++ x : Word).extractLsb' 8 23 = p.extractLsb' 0 23 ∧
    (p ++ x : Word).extractLsb' 29 2 = p.extractLsb' 21 2 ∧ isWrite (p ++ x : Word) = p.getLsbD 23 := by
  refine ⟨?_, ?_, ?_, by simp only [isWrite, BitVec.getLsbD_append]; simp⟩ <;> apply BitVec.eq_of_getLsbD_eq <;> intro k hk <;>
    simp only [BitVec.getLsbD_extractLsb', BitVec.getLsbD_append, hk, decide_true, Bool.true_and]
  · simp [hk]
  · simp [show ¬ 8 + k < 8 by omega]
  · simp [show ¬ 29 + k < 8 by omega, show 29 + k - 8 = 21 + k by omega]

theorem illegal_word_fields (D : BitVec 1) (a : BitVec 31) :
    (D ++ a : Word).extractLsb' 0 31 = a ∧ (D ++ a : Word).extractLsb' 29 2 = a.extractLsb' 29 2 ∧
    (D ++ a : Word).extractLsb' 8 23 = a.extractLsb' 8 23 ∧ isWrite (D ++ a : Word) = D.getLsbD 0 := by
  refine ⟨?_, ?_, ?_, by simp only [isWrite, BitVec.getLsbD_append]; simp⟩ <;> apply BitVec.eq_of_getLsbD_eq <;> intro k hk <;>
    simp only [BitVec.getLsbD_extractLsb', BitVec.getLsbD_append, hk, decide_true, Bool.true_and]
  · simp [hk]
  · simp [show 29 + k < 31 by omega]
  · simp [show 8 + k < 31 by omega]

/-- The check of R78 on bits 30:0 is the decoder's last row. -/
theorem isIllegalAddress_iff (D : BitVec 1) (a : BitVec 31) :
    isIllegalAddress a = true ↔ regionOf (D ++ a : Word) = .illegal := by
  obtain ⟨-, hc, hp, -⟩ := illegal_word_fields D a
  rw [regionOf_eq, hc, hp]
  have hq : ∀ q : BitVec 21, a.extractLsb' 8 23 = (1#2 ++ q : BitVec 23) ↔
      a.extractLsb' 29 2 = 1#2 ∧ a.extractLsb' 8 21 = q := by
    intro q
    constructor
    · intro h
      constructor <;> apply BitVec.eq_of_getLsbD_eq <;> intro k hk
      · have := congrArg (fun v => BitVec.getLsbD v (21 + k)) h
        simp only [BitVec.getLsbD_extractLsb', BitVec.getLsbD_append] at this ⊢
        simpa [hk, show 21 + k < 23 by omega, show 8 + (21 + k) = 29 + k by omega] using this
      · have := congrArg (fun v => BitVec.getLsbD v k) h
        simp only [BitVec.getLsbD_extractLsb', BitVec.getLsbD_append] at this ⊢
        simpa [hk, show k < 23 by omega] using this
    · rintro ⟨h1, h2⟩
      apply BitVec.eq_of_getLsbD_eq
      intro k hk
      simp only [BitVec.getLsbD_append, ← h1, ← h2, BitVec.getLsbD_extractLsb']
      by_cases h : k < 21
      · simp [h, hk]
      · simp [h, hk, show k - 21 < 2 by omega, show 29 + (k - 21) = 8 + k by omega]
  have h0 := hq 0x000000#21
  have h1 := hq 0x000001#21
  have h2 := hq 0x000100#21
  simp only [show (1#2 ++ 0x000000#21 : BitVec 23) = 0x200000#23 by decide,
    show (1#2 ++ 0x000001#21 : BitVec 23) = 0x200001#23 by decide,
    show (1#2 ++ 0x000100#21 : BitVec 23) = 0x200100#23 by decide] at h0 h1 h2
  simp only [h0, h1, h2, isIllegalAddress]
  generalize a.extractLsb' 29 2 = c
  generalize a.extractLsb' 8 21 = p
  have : c = 0 ∨ c = 1 ∨ c = 2 ∨ c = 3 := by revert c; decide
  by_cases p0 : p = 0#21 <;> by_cases p1 : p = 1#21 <;> by_cases p2 : p = 0x100#21 <;>
    rcases this with rfl | rfl | rfl | rfl <;> simp_all

end Sys2Proof
end

