-- ==== Sys2Proof/Laws/Operands.lean ====
section
/-! SUPPORT. The masked bases of the decode table as the operations' own base operands (30_encoding.md R79). -/

namespace Sys2Proof.Machine

/-- ROM_MASK of a valid configuration is `2^n - 1` with `n` at most 23. -/
theorem romMask_eq {c : Config} (h : configValid c = true) : ∃ n, n ≤ 23 ∧ romMask c = 2 ^ n - 1 := by
  obtain ⟨⟨k, hk, hr⟩, -⟩ := (configValid_iff c).1 h
  exact ⟨6 + k, by omega, by simp [romMask, hr]⟩

/-- "ROM base = `addr[28:6] & ROM_MASK`, which is `(addr >> 6) & ROM_MASK`" (R79). -/
theorem romBase_field {c : Config} (h : configValid c = true) (a : Word) :
    (a >>> 6).toNat &&& romMask c = romBase c (a.extractLsb' 6 23) := by
  obtain ⟨n, hn, hm⟩ := romMask_eq h
  apply Nat.eq_of_testBit_eq
  intro i
  simp only [romBase, hm, Nat.testBit_and, Nat.testBit_two_pow_sub_one, BitVec.testBit_toNat]
  by_cases hi : i < n
  · simp [hi, show i < 23 by omega]
  · simp [hi]

/-- "RTC base = `addr[1:0]`" (R79). -/
theorem rtcBase_field (a : Word) : (a &&& 0x03#32).toNat = rtcBase (a.extractLsb' 0 2) := by
  simp only [BitVec.toNat_and, rtcBase, BitVec.extractLsb'_toNat, Nat.shiftRight_zero]
  exact Nat.and_two_pow_sub_one_eq_mod a.toNat 2

/-- "SRAM base = `addr[5:0]`" (R79). -/
theorem sramBase_field (a : Word) : (a &&& 0x3F#32).toNat = sramBase (a.extractLsb' 0 6) := by
  simp only [BitVec.toNat_and, sramBase, BitVec.extractLsb'_toNat, Nat.shiftRight_zero]
  exact Nat.and_two_pow_sub_one_eq_mod a.toNat 6

theorem decodeAddress_region (m : Nat) (a : Word) : (decodeAddress m a).1 = regionOf a := by
  unfold decodeAddress; cases regionOf a <;> rfl

theorem decodeData_ne_construct (a : Word) (d : Byte) : decodeData a d ≠ .construct := by
  unfold decodeData; split <;> simp

theorem decodeOp_ne_construct (pos : Nat) (a : Word) {op : BusOp} (h : op ≠ .construct) :
    decodeOp pos a op ≠ .construct := by
  cases op with
  | cs level => simp only [decodeOp, decodeLevel]; split <;> simp
  | xfer d => simp only [decodeOp, decodeXfer]; split_ifs <;> simp [decodeData_ne_construct]
  | construct => exact absurd rfl h
  | teardown => simp [decodeOp]

theorem decodeXfer_data {pos : Nat} (h : 4 ≤ pos) (a : Word) (d : Byte) : decodeXfer pos a d = decodeData a d := by
  simp [decodeXfer, show ¬ pos < 3 by omega, show pos ≠ 3 by omega]

end Sys2Proof.Machine
end

