-- ==== Sys2Proof/Laws/PerInstr.lean ====
section
/-! SUPPORT. Per-instruction families over the syntax. `EncodeLength`: no operation has a variable length (30_encoding.md
R82), so an instruction has exactly the bytes of its selector's format. -/

namespace Sys2Proof.Laws.EncodeLength

/-- The bytes of a format: one for a CS or an address byte, the four of the word and the data byte in the data phase,
none for a lifecycle operation. -/
def bytesOf : Selector → Nat
  | .cs => 1
  | .xfer pos => if pos < 4 then 1 else 5
  | .construct => 0
  | .teardown => 0

def Statement (i : Instr) : Prop := (encode i).length = bytesOf (selectorOf i)

theorem csReset : Statement .csReset := rfl
theorem csActive : Statement .csActive := rfl
theorem xferAddr (d : Byte) : Statement (.xferAddr d) := rfl
theorem xferLatch (d : Byte) : Statement (.xferLatch d) := rfl
theorem romRd (i : BitVec 23) (x : BitVec 6) (d : Byte) : Statement (.romRd i x d) := rfl
theorem romWr (i : BitVec 23) (x : BitVec 6) (d : Byte) : Statement (.romWr i x d) := rfl
theorem rtcRd (x : BitVec 6) (b : BitVec 2) (d : Byte) : Statement (.rtcRd x b d) := rfl
theorem rtcWr (x : BitVec 6) (b : BitVec 2) (d : Byte) : Statement (.rtcWr x b d) := rfl
theorem sramRd (x : BitVec 2) (b : BitVec 6) (d : Byte) : Statement (.sramRd x b d) := rfl
theorem sramWr (x : BitVec 2) (b : BitVec 6) (d : Byte) : Statement (.sramWr x b d) := rfl
theorem uartRd (x : BitVec 8) (d : Byte) : Statement (.uartRd x d) := rfl
theorem uartWr (x : BitVec 8) (d : Byte) : Statement (.uartWr x d) := rfl
theorem illRd (a : BitVec 31) (d : Byte) : Statement (.illRd a d) := rfl
theorem illWr (a : BitVec 31) (d : Byte) : Statement (.illWr a d) := rfl
theorem construct : Statement .construct := rfl
theorem teardown : Statement .teardown := rfl

end Sys2Proof.Laws.EncodeLength
end

