-- ==== Sys2Proof/Laws/Step.lean ====
section
/-! SUPPORT. What an operation and a step can do, said once: every operation but CONSTRUCT is a guarded update. -/

namespace Sys2Proof.Machine

/-- The update a live device's operation makes. CONSTRUCT is not one; its row is never used. -/
def effect : Instr → State → State
  | .csReset, s => s.setPos 0
  | .csActive, s => s
  | .xferAddr d, s => (s.addressByte d).advance
  | .xferLatch d, s => ((s.addressByte d).latch).advance
  | .romRd i _ d, s =>
    (s.bounded (regionSize s.cfg .rom) (romBase s.cfg i) d fun k t => t.setDOut (t.readByte .rom k)).endData
  | .romWr i _ d, s => (s.bounded (regionSize s.cfg .rom) (romBase s.cfg i) d fun _ t => t.setDOut d).endData
  | .rtcRd _ b d, s =>
    (s.bounded (regionSize s.cfg .rtc) (rtcBase b) d fun k t => t.setDOut (t.readByte .rtc k)).endData
  | .rtcWr _ b d, s =>
    (s.bounded (regionSize s.cfg .rtc) (rtcBase b) d fun k t => (t.setRtc (t.rtc.write k d)).setDOut d).endData
  | .sramRd _ b d, s =>
    (s.bounded (regionSize s.cfg .sram) (sramBase b) d fun k t => t.setDOut (t.readByte .sram k)).endData
  | .sramWr _ b d, s =>
    (s.bounded (regionSize s.cfg .sram) (sramBase b) d fun k t => (t.setSram (t.sram.write k d)).setDOut d).endData
  | .uartRd _ _, s => (s.setDOut uartStatus).endData
  | .uartWr _ d, s => ((s.uartPut d).setDOut d).endData
  | .illRd _ d, s => (s.passThrough d).endData
  | .illWr _ d, s => (s.passThrough d).endData
  | .construct, s => s
  | .teardown, s => (s.sramSave.setUbuf []).setLife .tornDown

theorem exec_eq_whenLive {i : Instr} (h : i ≠ .construct) (s : State) : exec i s = s.whenLive (effect i) := by
  cases i <;> first | rfl | exact absurd rfl h

/-- All an operation other than CONSTRUCT can do. -/
theorem exec_next_iff {i : Instr} (h : i ≠ .construct) {s t : State} :
    exec i s = .next t ↔ s.life = .constructed ∧ t = effect i s := by
  rw [exec_eq_whenLive h, whenLive_next_iff]

/-- All CONSTRUCT can do. -/
theorem exec_construct_next_iff {s t : State} :
    exec .construct s = .next t ↔
      configValid s.env.takeConfig.1 = true ∧ t = s.construct s.env.takeConfig.1 s.env.takeConfig.2 := by
  simp only [exec, execConstruct]
  split
  · rename_i h; simp [h, eq_comm]
  · rename_i h; simp [h]

theorem step_idle {s : State} (h : s.inbox = []) : step s = .next s := by
  simp [step, State.nextInstr, h]

theorem step_issued {s : State} {op : BusOp} {rest : List BusOp} (h : s.inbox = op :: rest) :
    step s = exec (decodeOp s.pos s.addr op) (s.setInbox rest) := by
  simp [step, State.nextInstr, h]

@[simp] theorem run_zero (s : State) : run 0 s = .next s := rfl

/-- A run takes one step and goes on from its next state. -/
theorem run_succ_next {s t : State} (h : step s = .next t) (n : Nat) : run (n + 1) s = run n t := by
  have hc : Sys2Proof.core.step s = .next t := h
  simp only [run, Host.Core.run, hc]; rfl

theorem run_succ_refused {s : State} {r : Refusal} (h : step s = .refused r) (n : Nat) :
    run (n + 1) s = .refused r := by
  have hc : Sys2Proof.core.step s = .refused r := h
  simp only [run, Host.Core.run, hc]; rfl

/-- A run of `m + n` steps is a run of `m` and then one of `n`. -/
theorem run_add_next {m : Nat} {s t : State} (h : run m s = .next t) (n : Nat) : run (m + n) s = run n t := by
  induction m generalizing s with
  | zero => cases h; simp
  | succ m ih =>
    cases hs : step s with
    | next u =>
      rw [run_succ_next hs] at h
      rw [Nat.add_right_comm, run_succ_next hs]
      exact ih h
    | fault f => exact nomatch f
    | refused r => rw [run_succ_refused hs] at h; cases h

end Sys2Proof.Machine
end

