-- ==== Sys2Proof/Laws/Transaction.lean ====
section
/-! SUPPORT. One step of each phase of a transaction on a live device, as the bus master issues it, and the word that four
address bytes build. -/

namespace Sys2Proof.Machine

/-- A step that runs CS(1). -/
theorem step_chipSelect {s : State} {rest : List BusOp} (hl : s.life = .constructed)
    (h : s.inbox = .cs 1#1 :: rest) : step s = .next ((s.setInbox rest).setPos 0) := by
  rw [step_issued h]
  exact (exec_next_iff (by simp [decodeOp, decodeLevel])).2 ⟨hl, rfl⟩

/-- A step that runs one of the first three address bytes. -/
theorem step_addressByte {s : State} {d : Byte} {rest : List BusOp} (hl : s.life = .constructed) (hp : s.pos < 3)
    (h : s.inbox = .xfer d :: rest) : step s = .next (((s.setInbox rest).addressByte d).advance) := by
  rw [step_issued h]
  simp only [decodeOp, decodeXfer, hp, if_true]
  exact (exec_next_iff (by simp)).2 ⟨hl, rfl⟩

/-- A step that runs the fourth address byte. -/
theorem step_latch {s : State} {d : Byte} {rest : List BusOp} (hl : s.life = .constructed) (hp : s.pos = 3)
    (h : s.inbox = .xfer d :: rest) : step s = .next ((((s.setInbox rest).addressByte d).latch).advance) := by
  rw [step_issued h]
  simp only [decodeOp, decodeXfer, hp]
  exact (exec_next_iff (by simp)).2 ⟨hl, rfl⟩

/-- A step that runs a data-phase byte. -/
theorem step_dataByte {s : State} {d : Byte} {rest : List BusOp} (hl : s.life = .constructed) (hp : 4 ≤ s.pos)
    (h : s.inbox = .xfer d :: rest) : step s = .next (effect (decodeData s.addr d) (s.setInbox rest)) := by
  rw [step_issued h]
  simp only [decodeOp, decodeXfer_data hp]
  exact (exec_next_iff (decodeData_ne_construct _ _)).2 ⟨hl, rfl⟩

/-- Four bytes shifted in are the whole word, whatever stood there (40_transaction_controller.md R102). -/
theorem shiftIn_four (a : Word) (b0 b1 b2 b3 : Byte) :
    ((((((((a <<< 8) ||| b0.setWidth 32) <<< 8) ||| b1.setWidth 32) <<< 8) ||| b2.setWidth 32) <<< 8)
      ||| b3.setWidth 32) = be32 b0 b1 b2 b3 := by
  apply BitVec.eq_of_getLsbD_eq
  intro i hi
  simp only [be32, BitVec.getLsbD_append, BitVec.getLsbD_or, BitVec.getLsbD_shiftLeft, BitVec.getLsbD_setWidth]
  interval_cases i <;> simp

/-- `BE32` as a number (00_scope.md R9). -/
theorem be32_toNat (b0 b1 b2 b3 : Byte) :
    (be32 b0 b1 b2 b3).toNat = b0.toNat * 2 ^ 24 + b1.toNat * 2 ^ 16 + b2.toNat * 2 ^ 8 + b3.toNat := by
  simp only [be32, BitVec.toNat_append]
  have h1 := b1.isLt
  have h2 := b2.isLt
  have h3 := b3.isLt
  rw [← Nat.shiftLeft_add_eq_or_of_lt h1, ← Nat.shiftLeft_add_eq_or_of_lt h2, ← Nat.shiftLeft_add_eq_or_of_lt h3]
  simp only [Nat.shiftLeft_eq]
  omega

end Sys2Proof.Machine
end

