-- ==== Sys2Proof/Tests/Slice0.lean ====
section
/-! SUPPORT. Tests. Every expected value comes from the spec: the encodings of 30_encoding.md and the vectors of
95_test_vectors.md under its configuration CFG-T. Each `witness_` theorem meets the hypotheses of the obligation it is
named after, at the edges of its clauses. -/

namespace Sys2Proof.Tests

open Sys2Proof Sys2Proof.Machine

/-! ### CFG-T (95_test_vectors.md section 0) and small states -/

/-- The 46 ASCII bytes of CFG-T's version string. -/
def versionT : List Byte :=
  [0x28, 0x43, 0x29, 0x20, 0x54, 0x45, 0x53, 0x54, 0x20, 0x49, 0x50, 0x4C, 0x20, 0x43, 0x46, 0x47] ++
  [0x2D, 0x54, 0x20, 0x76, 0x65, 0x72, 0x73, 0x69, 0x6F, 0x6E, 0x20, 0x73, 0x74, 0x72, 0x69, 0x6E] ++
  [0x67, 0x2C, 0x20, 0x34, 0x36, 0x20, 0x62, 0x79, 0x74, 0x65, 0x73, 0x2E, 0x21, 0x21]

/-- All 0x00 but byte 0x00 = 0x11 and byte 0x0F = 0x0A. -/
def templateT : List Byte := [0x11] ++ List.replicate 14 0x00 ++ [0x0A] ++ List.replicate 48 0x00

def cfgT : Config where
  romSize := 0x1000
  romFill := 0x00
  versionString := versionT
  fontAOffset := 0x100
  fontBOffset := 0x800
  sramTemplate := templateT
  lang := 0x01
  biasOffset := 0x0C
  diagBuild := false

/-- `F` of CFG-T, or its first `n` bytes, or with more bytes after it: `F[k] = 0x40 + k`. -/
def fileT (n : Nat) : List Byte := (List.range n).map fun k => BitVec.ofNat 8 (0x40 + k)

/-- CFG-T's answers, the host clock at E + 10 + 0x01020304. -/
def envT (load : LoadAnswer) (save : SaveAnswer) : Environment where
  configs := [cfgT]
  clock := [963593870]
  fontLoads := [.ok [0xA0, 0xA1, 0xA2, 0xA3], .fail]
  sramLoads := [load]
  sramSaves := [save]
  drawn := 0

/-- A device that does not exist yet, with the host ready to construct it. -/
def unborn (load : LoadAnswer) : State := { State.unborn with env := envT load .ok }

/-- A live device with a few bytes in each region and the operations `ops` issued. -/
def live (pos : Nat) (addr off : Word) (ops : List BusOp) : State :=
  { unborn .fail with
    life := .constructed, cfg := cfgT, pos := pos, addr := addr, off := off, inbox := ops
    rom := ⟨0x00, [(0, 0x28), (1, 0x43), (0x100, 0xA0)]⟩
    sram := ⟨0x00, [(0x12, 0x01), (62, 0x7E), (63, 0x7F)]⟩
    rtc := ⟨0x00, [(0, 0x12), (1, 0x34), (2, 0x56), (3, 0x78)]⟩ }

/-- The same after TEARDOWN. -/
def dead (ops : List BusOp) : State := { live 0 0 0 ops with life := .tornDown }

/-- A live device of a diagnostic build. -/
def liveDiag (pos : Nat) (addr : Word) : State := { live pos addr 0 [] with cfg := { cfgT with diagBuild := true } }

/-- The outcome is a next state with this property. -/
def after (o : Host.Outcome State Fault Refusal) (p : State → Bool) : Bool :=
  match o with
  | .next t => p t
  | .fault _ => false
  | .refused _ => false

/-- The outcome is this refusal. -/
def refusedAs (o : Host.Outcome State Fault Refusal) (r : Refusal) : Bool :=
  match o with
  | .next _ => false
  | .fault _ => false
  | .refused q => decide (q = r)

/-! ### WellFormed refuses what has no encoding (30_encoding.md R78) -/

theorem test_wellFormed_refuses_region_words :
    wellFormed (.illRd 0x00000000#31 0) = false ∧ wellFormed (.illWr 0x1FFFFFFF#31 0) = false ∧
    wellFormed (.illRd 0x20000000#31 0) = false ∧ wellFormed (.illWr 0x200000FF#31 0) = false ∧
    wellFormed (.illRd 0x20000100#31 0) = false ∧ wellFormed (.illWr 0x200001FF#31 0) = false ∧
    wellFormed (.illRd 0x20010000#31 0) = false ∧ wellFormed (.illWr 0x200100FF#31 0) = false := by decide

/-- R78's own examples of Illegal words. -/
theorem test_wellFormed_accepts_illegal_words :
    wellFormed (.illRd 0x40000000#31 0) = true ∧ wellFormed (.illRd 0x60000000#31 0) = true ∧
    wellFormed (.illWr 0x7FFFFFFF#31 0) = true ∧ wellFormed (.illRd 0x20000200#31 0) = true ∧
    wellFormed (.illRd 0x20000300#31 0) = true ∧ wellFormed (.illRd 0x20010100#31 0) = true ∧
    wellFormed (.illRd 0x20020000#31 0) = true ∧ wellFormed (.illRd 0x3FFFFFFF#31 0) = true := by decide

/-! ### Decoding, from words written out of 30_encoding.md R72 to R80 -/

theorem test_decode_cs :
    (decodeBytes .cs [0b00000001#8]).toOption = some .csReset ∧ (decodeBytes .cs [0b00000000#8]).toOption = some .csActive ∧
    (decodeBytes .cs [0b00000010#8]).toOption = none ∧ (decodeBytes .cs []).toOption = none := by decide

theorem test_decode_address_bytes :
    (decodeBytes (.xfer 0) [0xA0#8]).toOption = some (.xferAddr 0xA0) ∧
    (decodeBytes (.xfer 2) [0x01#8]).toOption = some (.xferAddr 0x01) ∧
    (decodeBytes (.xfer 3) [0x05#8]).toOption = some (.xferLatch 0x05) ∧
    (decodeBytes (.xfer 3) [0x05#8, 0x05#8]).toOption = none := by decide

/-- `000 i×23 x×6` with `i = 1` and `x = 0b101010`. -/
theorem test_decode_romRd : (decodeBytes (.xfer 4) [0b00000000#8, 0b00000000#8, 0b00000000#8, 0b01101010#8, 0x99#8]).toOption =
    some (.romRd 1 0b101010 0x99) := by decide
/-- `100 i×23 x×6` with every `i` bit set. -/
theorem test_decode_romWr : (decodeBytes (.xfer 4) [0b10011111#8, 0b11111111#8, 0b11111111#8, 0b11000000#8, 0x99#8]).toOption =
    some (.romWr 0x7FFFFF 0 0x99) := by decide
/-- `0010 0000 0000 0000 0000 0000 xxxxxx bb`. -/
theorem test_decode_rtcRd : (decodeBytes (.xfer 4) [0b00100000#8, 0b00000000#8, 0b00000000#8, 0b10000110#8, 0x00#8]).toOption =
    some (.rtcRd 0b100001 0b10 0x00) := by decide
theorem test_decode_rtcWr : (decodeBytes (.xfer 4) [0b10100000#8, 0b00000000#8, 0b00000000#8, 0b00000011#8, 0xDE#8]).toOption =
    some (.rtcWr 0 0b11 0xDE) := by decide
/-- `0010 0000 0000 0000 0000 0001 xx bbbbbb`. -/
theorem test_decode_sramRd : (decodeBytes (.xfer 4) [0b00100000#8, 0b00000000#8, 0b00000001#8, 0b01010010#8, 0x00#8]).toOption =
    some (.sramRd 0b01 0b010010 0x00) := by decide
theorem test_decode_sramWr : (decodeBytes (.xfer 4) [0b10100000#8, 0b00000000#8, 0b00000001#8, 0b10000101#8, 0x77#8]).toOption =
    some (.sramWr 0b10 0b000101 0x77) := by decide
/-- `0010 0000 0000 0001 0000 0000 xxxxxxxx`. -/
theorem test_decode_uartRd : (decodeBytes (.xfer 4) [0b00100000#8, 0b00000001#8, 0b00000000#8, 0b00000001#8, 0x00#8]).toOption =
    some (.uartRd 1 0x00) := by decide
theorem test_decode_uartWr : (decodeBytes (.xfer 4) [0b10100000#8, 0b00000001#8, 0b00000000#8, 0b11111111#8, 0x48#8]).toOption =
    some (.uartWr 0xFF 0x48) := by decide
theorem test_decode_illRd : (decodeBytes (.xfer 4) [0b01000000#8, 0b00000000#8, 0b00000000#8, 0b00000000#8, 0x5C#8]).toOption =
    some (.illRd 0x40000000 0x5C) := by decide
theorem test_decode_illWr : (decodeBytes (.xfer 4) [0b11000000#8, 0b00000000#8, 0b00000000#8, 0b00000000#8, 0x01#8]).toOption =
    some (.illWr 0x40000000 0x01) := by decide

theorem test_decode_lifecycle :
    (decodeBytes .construct []).toOption = some .construct ∧ (decodeBytes .teardown []).toOption = some .teardown ∧
    (decodeBytes .teardown [0x00#8]).toOption = none ∧
    decodeOp 9 0 .construct = .construct ∧ decodeOp 9 0 .teardown = .teardown := by decide

/-- 95_test_vectors.md section 2.3, regions and bases with ROM_MASK 0xFFF. -/
theorem test_decodeAddress_vectors :
    decodeAddress 0xFFF 0x0000003F#32 = (.rom, 0) ∧ decodeAddress 0xFFF 0x00000040#32 = (.rom, 1) ∧
    decodeAddress 0xFFF 0x1FFFFFC0#32 = (.rom, 0xFFF) ∧ decodeAddress 0xFFF 0x80000040#32 = (.rom, 1) ∧
    decodeAddress 0xFFF 0x200000FF#32 = (.rtc, 3) ∧ decodeAddress 0xFFF 0x2000013F#32 = (.sram, 63) ∧
    decodeAddress 0xFFF 0x20000140#32 = (.sram, 0) ∧ decodeAddress 0xFFF 0xA00001FF#32 = (.sram, 63) ∧
    (decodeAddress 0xFFF 0xA00100FF#32).1 = .uart ∧ (decodeAddress 0xFFF 0x3FFFFFFF#32).1 = .illegal := by decide

/-! ### The operations (95_test_vectors.md sections 2.1 to 2.9) -/

theorem test_csReset : after (exec .csReset (live 9 0x20000103 3 [])) (fun t => t.pos == 0 && t.off == 3) = true := by decide

theorem test_csActive : after (exec .csActive (live 2 0 0 [])) (fun t => t.pos == 2) = true := by decide

theorem test_xferAddr_shifts : after (exec (.xferAddr 0xA0) (live 0 0x12345678 7 []))
    (fun t => t.addr == 0x345678A0 && t.off == 0 && t.pos == 1 && t.dOut == some 0xFF && t.rtc.read 0 == 0x12) = true := by
  decide

theorem test_xferLatch_refreshes : after (exec (.xferLatch 0x00) (live 3 0x00200001 0 []))
    (fun t => t.addr == 0x20000100 && t.rtc.firstBytes 4 == [0x01, 0x02, 0x03, 0x04] && t.pos == 4 &&
      t.dOut == some 0xFF && t.diag == []) = true := by decide

theorem test_xferLatch_classifies : after (exec (.xferLatch 0x00) (liveDiag 3 0x00200001))
    (fun t => t.diag == [.classify 0x20000100 .sram]) = true := by decide

/-- The RTC table of section 2.2. -/
theorem test_rtcValue_vectors :
    rtcValue cfgT 963593870 = 0x01020304 ∧ rtcValue cfgT 946684810 = 0 ∧ rtcValue cfgT 946684809 = 0xFFFFFFFF ∧
    rtcValue cfgT 0 = 0xC792BC76 ∧ rtcValue cfgT 5241652111 = 5 := by decide

theorem test_romRd_reads : after (exec (.romRd 1 0 0) (live 5 0x40 0 [])) (fun t => t.dOut == some 0x43 && t.off == 1) = true := by
  decide

/-- Section 2.4: the third byte from base 0xFFE overruns. -/
theorem test_romRd_overruns : after (exec (.romRd 0xFFE 0x3F 0x55) (live 6 0x0003FFBF 2 []))
    (fun t => t.ovf && t.warn == [.regionOverrun 0x0003FFBF 2] && t.off == 3 && t.pos == 7) = true := by decide

theorem test_romWr_ignored : after (exec (.romWr 0 0 0x99) (live 4 0x80000000 0 []))
    (fun t => t.dOut == some 0x99 && t.rom.read 0 == 0x28) = true := by decide

theorem test_rtcRd_reads : after (exec (.rtcRd 0 3 0) (live 4 0x20000003 0 [])) (fun t => t.dOut == some 0x78) = true := by decide

theorem test_rtcRd_overruns : after (exec (.rtcRd 0 3 0) (live 5 0x20000003 1 [])) (fun t => t.ovf && t.off == 2) = true := by
  decide

theorem test_rtcWr_stores : after (exec (.rtcWr 0 0 0xAD) (live 5 0xA0000000 1 []))
    (fun t => t.rtc.firstBytes 4 == [0x12, 0xAD, 0x56, 0x78] && t.dOut == some 0xAD) = true := by decide

theorem test_rtcWr_overruns : after (exec (.rtcWr 0 2 0xCC) (live 6 0xA0000002 2 []))
    (fun t => t.ovf && t.rtc.firstBytes 4 == [0x12, 0x34, 0x56, 0x78]) = true := by decide

theorem test_sramRd_reads : after (exec (.sramRd 0 0x3E 0) (live 5 0x2000013E 1 [])) (fun t => t.dOut == some 0x7F) = true := by
  decide

theorem test_sramRd_overruns : after (exec (.sramRd 0 0x3E 0) (live 6 0x2000013E 2 []))
    (fun t => t.ovf && t.warn == [.regionOverrun 0x2000013E 2]) = true := by decide

theorem test_sramWr_stores : after (exec (.sramWr 0 5 0x77) (live 4 0xA0000105 0 []))
    (fun t => t.sram.read 5 == 0x77 && t.sram.read 4 == 0 && t.dOut == some 0x77 && t.file == none) = true := by decide

theorem test_uartRd_status : after (exec (.uartRd 0 0) (live 4 0x20010000 0 [])) (fun t => t.dOut == some 0x01) = true := by decide

/-- Section 2.7: a 0x0D arriving as the 256th byte is a terminator. -/
theorem test_uartWr_terminator_first :
    after (exec (.uartWr 0 0x0D) { live 4 0xA0010000 0 [] with ubuf := List.replicate 255 0x41 })
      (fun t => t.log == [List.replicate 255 0x41] && t.ubuf == []) = true := by decide +kernel

theorem test_uartWr_capacity :
    after (exec (.uartWr 0 0x42) { live 4 0xA0010000 0 [] with ubuf := List.replicate 255 0x42 })
      (fun t => t.log == [List.replicate 256 0x42] && t.ubuf == []) = true := by decide +kernel

theorem test_illRd_passes : after (exec (.illRd 0x40000000 0x5C) (live 4 0x40000000 0 []))
    (fun t => t.dOut == some 0x5C && t.off == 1 && t.pos == 5 && t.diag == []) = true := by decide

theorem test_illWr_diagnoses : after (exec (.illWr 0x40000000 0x01) (liveDiag 4 0xC0000000))
    (fun t => t.dOut == some 0x01 && t.diag == [.illegalAddress 0xC0000000]) = true := by decide

/-- The state after CONSTRUCT with CFG-T (section 0). -/
theorem test_construct_file : after (exec .construct (unborn (.ok (fileT 64))))
    (fun t => t.rom.firstBytes 46 == versionT && t.rom.read 0x100 == 0xA0 && t.rom.read 0x103 == 0xA3 &&
      t.rom.read 0x104 == 0 && t.rom.read 0x800 == 0 && t.sram.read 0x11 == 0x51 && t.sram.read 0x12 == 0x01 &&
      t.sram.read 0x13 == 0x53 && t.warn == [.assetLoad .B]) = true := by decide +kernel

/-- Section 2.6: a short file falls back to the template. -/
theorem test_construct_short_file : after (exec .construct (unborn (.ok (fileT 63))))
    (fun t => t.sram.read 0 == 0x11 && t.sram.read 0x0F == 0x0A && t.sram.read 0x12 == 0x01 &&
      t.warn == [.assetLoad .B, .configLoadFallback]) = true := by decide +kernel

/-- Section 2.9: a ROM size that is no power of two; a font inside the version span. -/
theorem test_construct_refusals :
    refusedAs (exec .construct { State.unborn with env := { envT .fail .ok with
      configs := [{ cfgT with romSize := 0x1800 }] } }) .badConfiguration = true ∧
    refusedAs (exec .construct { State.unborn with env := { envT .fail .ok with
      configs := [{ cfgT with fontAOffset := 0x20 }] } }) .badConfiguration = true := by decide

theorem test_teardown_saves : after (exec .teardown { live 5 0 0 [] with ubuf := [0x61, 0x62] })
    (fun t => t.file == some (t.sram.firstBytes 64) && t.ubuf == [] && t.log == [] && t.life == .tornDown) = true := by decide

theorem test_teardown_save_fails : after (exec .teardown { live 5 0 0 [] with env := envT .fail .fail })
    (fun t => t.warn == [.persistenceWriteFailure] && t.file == none) = true := by decide

theorem test_xfer_after_teardown_refused : refusedAs (step (dead [.xfer 0x00])) .notConstructed = true := by decide

/-! ### The host's interface -/

theorem test_withFetchWord_runs_from_reset :
    after (step (State.reset.withFetchWord 8 1)) (fun t => t.pos == 0) = true ∧
    after (step (State.reset.withFetchWord 32 0x20010000)) (fun t => t.dOut == some 0x01 && t.pos == 5) = true ∧
    after (step (State.reset.withFetchWord 32 0x40000000)) (fun t => t.off == 1) = true := by decide

/-- The event codes of 60_exceptions.md R230. -/
theorem test_event_codes :
    warningCode (.assetLoad .A) = 1 ∧ warningCode .configLoadFallback = 2 ∧ diagnosticCode (.illegalAddress 0) = 3 ∧
    warningCode .persistenceWriteFailure = 4 ∧ warningCode (.regionOverrun 0 0) = 5 ∧
    diagnosticCode (.classify 0 .rom) = 6 := by decide

/-- 10_state.md R20: a save-state taken and loaded back is the same device. -/
theorem snapshot_restore (s : State) : s.restore s.snapshot = s := rfl

/-- A state can be compared with itself as data. -/
theorem test_state_is_data : (live 0 0 0 [] = live 0 0 0 []) ∧ ¬ (live 0 0 0 [] = live 1 0 0 []) := by decide

/-! ### Witnesses: concrete states and operands that meet each obligation's hypotheses -/

/-- `o` is a next state. -/
def runs (o : Host.Outcome State Fault Refusal) : Bool := after o fun _ => true

theorem witness_ConstructLeavesTheResetTable :
    (unborn .fail).env.takeConfig = (cfgT, { envT .fail .ok with configs := [] }) ∧ configValid cfgT = true := by decide

/-- A blob that ends exactly at the end of the ROM is placed, one byte more is not; the byte below a font is not its. -/
theorem witness_RomImageByteByByte :
    configValid cfgT = true ∧ fontFails 0x1000 0xFFE (.ok [0xB0, 0xB1]) = false ∧
    fontFails 0x1000 0xFFE (.ok [0xB0, 0xB1, 0xB2]) = true ∧ fontByte 0x1000 0xFFE (.ok [0xB0, 0xB1]) 0xFFF = some 0xB1 ∧
    fontByte 0x1000 0xFFE (.ok [0xB0, 0xB1]) 0xFFD = none := by decide

theorem witness_SramContentsByteByByte :
    configValid cfgT = true ∧ sramFallsBack (.ok (fileT 63)) = true ∧ sramFallsBack (.ok (fileT 64)) = false ∧
    (sramSource cfgT (.ok (fileT 65)))[63]? = some 0x7F ∧ (sramSource cfgT .fail)[15]? = some 0x0A := by decide +kernel

theorem witness_ConstructWarnsInOrder : ∃ t, (unborn .fail).env.takeConfig = (cfgT, { envT .fail .ok with configs := [] }) ∧
    exec .construct (unborn .fail) = .next t := ⟨_, by decide, exec_construct_next_iff.2 ⟨by decide, rfl⟩⟩

/-- The edges of each constraint of R261. -/
theorem witness_ConstructRefusesExactlyBadConfigurations :
    configValid { cfgT with romSize := 64, fontAOffset := 46, fontBOffset := 63 } = true ∧
    configValid { cfgT with romSize := 2 ^ 23 } = true ∧ configValid { cfgT with romSize := 2 ^ 24 } = false ∧
    configValid { cfgT with romSize := 32 } = false ∧ configValid { cfgT with fontAOffset := 45 } = false ∧
    configValid { cfgT with fontBOffset := 0x1000 } = false ∧ configValid { cfgT with biasOffset := 60 } = true ∧
    configValid { cfgT with biasOffset := 61 } = false ∧ configValid { cfgT with versionString := versionT.tail } = false ∧
    configValid { cfgT with sramTemplate := templateT.tail } = false := by decide

theorem witness_AddressMapDecodesEachRegion :
    0x9FFFFFFF#32 &&& 0x60000000#32 = 0#32 ∧ 0xA00000FF#32 &&& 0x7FFFFF00#32 = 0x20000000#32 ∧
    0x200001FF#32 &&& 0x7FFFFF00#32 = 0x20000100#32 ∧ 0x200100FF#32 &&& 0x7FFFFF00#32 = 0x20010000#32 ∧
    (0x20000200#32 &&& 0x60000000#32 ≠ 0#32 ∧ 0x20000200#32 &&& 0x7FFFFF00#32 ≠ 0x20000000#32 ∧
      0x20000200#32 &&& 0x7FFFFF00#32 ≠ 0x20000100#32 ∧ 0x20000200#32 &&& 0x7FFFFF00#32 ≠ 0x20010000#32) := by decide

theorem witness_DirectionBitDoesNotMoveTheRegion : configValid cfgT = true ∧
    decodeAddress (romMask cfgT) 0x9FFFFFC0#32 = decodeAddress (romMask cfgT) 0x1FFFFFC0#32 := by decide

/-- Each region in each direction, and the edges of `pos`. -/
theorem witness_OpcodeMapSelectsTheOperation :
    decodeOp 2 0 (.xfer 7) = .xferAddr 7 ∧ decodeOp 3 0 (.xfer 7) = .xferLatch 7 ∧
    (regionOf 0x1FFFFFFF = .rom ∧ isWrite 0x1FFFFFFF = false) ∧ (regionOf 0x80000000 = .rom ∧ isWrite 0x80000000 = true) ∧
    (regionOf 0x200000FF = .rtc ∧ isWrite 0x200000FF = false) ∧ (regionOf 0xA0000000 = .rtc ∧ isWrite 0xA0000000 = true) ∧
    (regionOf 0x20000100 = .sram ∧ isWrite 0x20000100 = false) ∧ (regionOf 0xA00001FF = .sram ∧ isWrite 0xA00001FF = true) ∧
    (regionOf 0x20010000 = .uart ∧ isWrite 0x20010000 = false) ∧ (regionOf 0xA00100FF = .uart ∧ isWrite 0xA00100FF = true) ∧
    (regionOf 0x20000200 = .illegal ∧ isWrite 0x20000200 = false) ∧
    (regionOf 0xFFFFFFFF = .illegal ∧ isWrite 0xFFFFFFFF = true) := by decide

theorem witness_OperandBasesAreTheDecodedBases : configValid cfgT = true ∧
    decodeData 0x1FFFFFFF 9 = .romRd 0x7FFFFF 0x3F 9 ∧ decodeData 0x80000040 9 = .romWr 1 0 9 ∧
    decodeData 0x200000FF 9 = .rtcRd 0x3F 3 9 ∧ decodeData 0xA0000003 9 = .rtcWr 0 3 9 ∧
    decodeData 0x20000140 9 = .sramRd 1 0 9 ∧ decodeData 0xA00001FF 9 = .sramWr 3 0x3F 9 := by decide

theorem witness_DecodeReadsBackEveryEncoding :
    wellFormed (.illWr 0x7FFFFFFF 0xFF) = true ∧ wellFormed (.romRd 0x7FFFFF 0x3F 0xFF) = true ∧ 2 < 3 := by decide

theorem witness_StepRunsTheDecodedOperation :
    (live 0 0 0 []).inbox = [] ∧ (live 3 0 0 [.xfer 1, .teardown]).inbox = .xfer 1 :: [.teardown] := by decide

theorem witness_ChipSelectHighResetsPosition :
    (live 9 0x20000103 2 []).life = .constructed ∧ (dead []).life ≠ .constructed := by decide
theorem witness_ChipSelectLowChangesNothing :
    (live 2 0x20000103 2 []).life = .constructed ∧ State.unborn.life ≠ .constructed := by decide
theorem witness_AddressPhaseTransferShiftsIn :
    ((live 2 0 7 [.xfer 9]).life = .constructed ∧ (live 2 0 7 [.xfer 9]).pos < 4 ∧ (live 2 0 7 [.xfer 9]).pos < 3 ∧
      (live 2 0 7 [.xfer 9]).inbox = .xfer 9 :: []) ∧
    (live 3 0 7 [.xfer 9]).pos < 4 ∧ (live 3 0 7 [.xfer 9]).pos = 3 := by decide
theorem witness_AddressByteShiftsIn : (live 2 0x12345678 7 []).life = .constructed := rfl
theorem witness_LatchRefreshesAndClassifies : (liveDiag 3 0x00200001).life = .constructed := rfl

theorem witness_RtcHoldsBiasedHostTime : (live 3 0x00200000 0 []).life = .constructed ∧
    configValid (live 3 0x00200000 0 []).cfg = true ∧
    configValid { (live 3 0x00200000 0 []).cfg with biasOffset := 60 } = true := by decide

/-- The last byte inside the ROM and the first past it. -/
theorem witness_RomReadReturnsTheByte :
    (live 5 0x0003FFBF 1 []).life = .constructed ∧ (0xFFE#23).toNat &&& (0x1000 - 1) = 0xFFE ∧
    0xFFE + (live 5 0x0003FFBF 1 []).off.toNat < (live 5 0x0003FFBF 1 []).cfg.romSize ∧
    (live 6 0x0003FFBF 2 []).cfg.romSize ≤ 0xFFE + (live 6 0x0003FFBF 2 []).off.toNat := by decide

theorem witness_RomWriteIsIgnored :
    (live 5 0x8003FFBF 1 []).life = .constructed ∧ (0x7FFFFE#23).toNat &&& (0x1000 - 1) = 0xFFE ∧
    0xFFE + (live 5 0x8003FFBF 1 []).off.toNat < (live 5 0x8003FFBF 1 []).cfg.romSize ∧
    (live 6 0x8003FFBF 2 []).cfg.romSize ≤ 0xFFE + (live 6 0x8003FFBF 2 []).off.toNat := by decide

theorem witness_RtcReadReturnsTheByte : (live 4 0x20000003 0 []).life = .constructed ∧
    (3#2).toNat + (live 4 0x20000003 0 []).off.toNat < 4 ∧ 4 ≤ (3#2).toNat + (live 5 0x20000003 1 []).off.toNat := by decide

theorem witness_RtcWriteStoresTheByte : (live 5 0xA0000002 1 []).life = .constructed ∧
    (2#2).toNat + (live 5 0xA0000002 1 []).off.toNat < 4 ∧ 4 ≤ (2#2).toNat + (live 6 0xA0000002 2 []).off.toNat := by decide

theorem witness_SramReadReturnsTheByte : (live 4 0x2000013F 0 []).life = .constructed ∧
    (63#6).toNat + (live 4 0x2000013F 0 []).off.toNat < 64 ∧ 64 ≤ (63#6).toNat + (live 5 0x2000013F 1 []).off.toNat := by decide

theorem witness_SramWriteStoresTheByte : (live 5 0xA000013E 1 []).life = .constructed ∧
    (62#6).toNat + (live 5 0xA000013E 1 []).off.toNat < 64 ∧ 64 ≤ (62#6).toNat + (live 6 0xA000013E 2 []).off.toNat := by decide

theorem witness_UartReadReturnsStatus : (live 4 0x20010000 0 []).life = .constructed := rfl

/-- The terminator, the 256th byte, and the 255th. -/
theorem witness_UartWriteAppendsAndFlushes : (live 4 0xA0010000 0 []).life = .constructed ∧ (0x0D#8 = 0x0D#8) ∧
    (0x0A#8 ≠ 0x0D#8 ∧ (List.replicate 255 0x41#8 ++ [0x0A#8]).length = 256) ∧
    (0x00#8 ≠ 0x0D#8 ∧ (List.replicate 254 0x41#8 ++ [0x00#8]).length ≠ 256) := by decide +kernel

theorem witness_IllegalPassesTheByteThrough : (liveDiag 4 0x40000000).life = .constructed := rfl

theorem witness_TeardownSavesAndEndsTheLife : (dead []).life ≠ .constructed ∧
    (live 5 0 0 []).life = .constructed ∧ (live 5 0 0 []).env.takeSramSave.1 = .ok ∧
    ({ live 5 0 0 [] with env := envT .fail .fail } : State).life = .constructed ∧
    ({ live 5 0 0 [] with env := envT .fail .fail } : State).env.takeSramSave.1 = .fail := by decide

/-- Index fields that differ only just above ROM_MASK 0xFFF, in every bit above it, and in none; bit 11 still counts. -/
theorem witness_IgnoredAddressBitsDoNotMatter :
    let c := (live 4 0 0 []).cfg
    romBase c 0x000001 = romBase c 0x001001 ∧ romBase c 0x000FFF = romBase c 0x7FFFFF ∧
    romBase c 0x000001 = romBase c 0x000001 ∧ romBase c 0x000001 ≠ romBase c 0x000801 := by decide

theorem witness_DataByteReadsTheAddressedByte :
    let s := live 4 0x2000013F 0 [.xfer 9]
    s.life = .constructed ∧ configValid s.cfg = true ∧ 4 ≤ s.pos ∧ s.inbox = .xfer 9 :: [] ∧ s.dir = false ∧
    decodeAddress (romMask s.cfg) s.addr = (.sram, 63) ∧ 63 + s.off.toNat < regionSize s.cfg .sram := by decide

theorem witness_DataByteWritesTheAddressedByte :
    let s := live 5 0xA0000002 1 [.xfer 9]
    s.life = .constructed ∧ configValid s.cfg = true ∧ 4 ≤ s.pos ∧ s.inbox = .xfer 9 :: [] ∧ s.dir = true ∧
    decodeAddress (romMask s.cfg) s.addr = (.rtc, 2) ∧ 2 + s.off.toNat < regionSize s.cfg .rtc := by decide

/-- Each clause: the first index past the region, the last inside it, and the two regions without an index. -/
theorem witness_BoundCheckDecidesTheOverrun :
    let s := live 5 0x2000013F 1 []
    let t := live 4 0x2000013F 0 []
    (s.life = .constructed ∧ configValid s.cfg = true ∧ decodeAddress (romMask s.cfg) s.addr = (.sram, 63) ∧
      regionSize s.cfg .sram ≤ 63 + s.off.toNat) ∧
    63 + t.off.toNat < regionSize t.cfg .sram ∧
    decodeAddress (romMask cfgT) 0xA00100FF = (.uart, 0) ∧ decodeAddress (romMask cfgT) 0x40000000 = (.illegal, 0) := by decide

theorem witness_WritesEchoTheByte :
    let s := live 5 0xA000013F 0 [.xfer 9]
    4 ≤ s.pos ∧ s.inbox = .xfer 9 :: [] ∧ s.dir = true ∧ after (step s) (fun t => !t.ovf) = true := by decide

theorem witness_EveryTransferCompletes :
    (live 6 0x2000013E 2 [.xfer 9]).life = .constructed ∧ (live 6 0x2000013E 2 [.xfer 9]).inbox = .xfer 9 :: [] := by decide

theorem witness_NothingRunsOutsideTheLifetime :
    ((dead [.cs 1]).life ≠ .constructed ∧ (dead [.cs 1]).inbox = .cs 1 :: [] ∧ BusOp.cs 1 ≠ .construct) ∧
    (∃ t v, exec .construct (unborn .fail) = .next t ∧
      exec .construct { dead [] with env := (unborn .fail).env } = .next v) :=
  ⟨by decide, _, _, exec_construct_next_iff.2 ⟨by decide, rfl⟩, exec_construct_next_iff.2 ⟨by decide, rfl⟩⟩

theorem witness_LiveOperationsAlwaysStep :
    (live 4 0 0 [.teardown]).life = .constructed ∧ (live 4 0 0 [.teardown]).inbox = .teardown :: [] ∧
    BusOp.teardown ≠ .construct := by decide

theorem witness_RomAndParametersAreFixedForLife :
    Instr.romWr 0 0 0x99 ≠ .construct ∧ runs (exec (.romWr 0 0 0x99) (live 4 0x80000000 0 [])) = true := by decide

theorem witness_DataByteTouchesOnlyItsRegion :
    runs (exec (decodeData 0x20000112 0) (live 4 0x20000112 0 [])) = true ∧ Region.rtc ≠ regionOf 0x20000112 ∧
    isWrite 0x20000112 = false ∧ regionOf 0x20000112 ≠ .uart := by decide

theorem witness_OverrunFlagIsSticky :
    (Instr.rtcRd 0 3 0 ≠ .construct ∧ runs (exec (.rtcRd 0 3 0) { live 4 0x20000003 0 [] with ovf := true }) = true) ∧
    (live 5 0x20000003 1 []).ovf = false ∧ after (exec (.rtcRd 0 3 0) (live 5 0x20000003 1 [])) (fun t => t.ovf) = true := by
  decide

theorem witness_ChannelsOnlyGrow :
    runs (step (live 4 0xA0010000 0 [.xfer 0x0D])) = true ∧
    runs (exec (decodeData 0x2000013F 0) (live 5 0x2000013F 1 [])) = true := by decide

theorem witness_OnlyTeardownReachesTheFile :
    after (exec .teardown (live 5 0 0 [])) (fun t => t.file != (live 5 0 0 []).file) = true := by decide

theorem witness_ReleaseBuildsEmitNoDiagnostics :
    Instr.illRd 0x40000000 0 ≠ .construct ∧ (live 4 0x40000000 0 []).cfg.diagBuild = false ∧
    (live 4 0x40000000 0 []).diag = [] ∧ runs (exec (.illRd 0x40000000 0) (live 4 0x40000000 0 [])) = true := by decide

theorem witness_StepKeepsTheInvariant :
    (live 4 0xA0000100 0 [.xfer 9]).Inv ∧ runs (step (live 4 0xA0000100 0 [.xfer 9])) = true :=
  ⟨⟨by decide, by decide, rfl, by decide, by decide, rfl, by decide, by decide, rfl, by decide, by decide⟩, by decide⟩

theorem witness_FourBytesBuildTheAddress :
    let s := live 9 0x20000103 3 (cs1 ++ (wr [0xA0, 0x00, 0x01, 0x05] ++ [.teardown]))
    s.life = .constructed ∧ s.inbox = cs1 ++ (wr [0xA0, 0x00, 0x01, 0x05] ++ [.teardown]) := ⟨rfl, rfl⟩

theorem witness_OffsetCountsTheDataBytes :
    let s := live 4 0xA0000105 0xFFFFFFFF (wr [0x77, 0x88] ++ [])
    s.life = .constructed ∧ 4 ≤ s.pos ∧ s.inbox = wr [0x77, 0x88] ++ [] := by decide

theorem witness_SramWriteReadsBackAndPersists :
    let ops := txn (0xA0000100#32 ||| (63#6).setWidth 32) (wr [0x77]) ++
      (txn (0x20000100#32 ||| (63#6).setWidth 32) (rd 1) ++ [])
    (live 0 0 0 ops).life = .constructed ∧ (live 0 0 0 ops).inbox = ops ∧ (live 0 0 0 ops).env.takeSramSave.1 = .ok := by decide

theorem witness_VersionStringReadsBackAfterConstruction :
    let ops := BusOp.construct :: (txn 0x00000000#32 (rd (45 + 1)) ++ [])
    let s := { unborn .fail with inbox := ops }
    configValid cfgT = true ∧ 45 ≤ 45 ∧ s.env.configs = cfgT :: [] ∧ s.inbox = ops :=
  ⟨by decide, Nat.le_refl _, rfl, rfl⟩

theorem witness_UartLineBecomesOneRecord :
    let line : List Byte := [0x48, 0x65, 0x6C, 0x6C, 0x6F]
    let s := { live 4 0xA0010000 0 (wr (line ++ [0x0D]) ++ []) with ubuf := List.replicate 250 0x41 }
    s.life = .constructed ∧ 4 ≤ s.pos ∧ regionOf s.addr = .uart ∧ s.dir = true ∧ 0x0D#8 ∉ line ∧
    s.ubuf.length + line.length ≤ 255 ∧ s.inbox = wr (line ++ [0x0D]) ++ [] :=
  by decide +kernel

theorem witness_UartFullBufferBecomesOneRecord :
    let line : List Byte := List.replicate 256 0x42
    let s := live 4 0xA0010000 0 (wr line ++ [])
    s.life = .constructed ∧ 4 ≤ s.pos ∧ regionOf s.addr = .uart ∧ s.dir = true ∧ 0x0D#8 ∉ line ∧ line.length = 256 ∧
    s.ubuf = [] ∧ s.inbox = wr line ++ [] :=
  by decide +kernel

theorem witness_RtcAdvancesWithTheHostClock :
    let s := live 3 0x00200000 0 []
    let u := { s with env := { s.env with clock := [963593870 + 10] } }
    s.life = .constructed ∧ u.life = .constructed ∧ u.cfg = s.cfg ∧ s.env.clock = 963593870 :: [] ∧
    u.env.clock = (963593870 + 10) :: [] := ⟨rfl, rfl, rfl, rfl, rfl⟩

theorem witness_RtcWritesAreLostAtTheNextLatch :
    let s := live 0 0 0 (txn (0x20000000#32 ||| (3#2).setWidth 32) (rd 1) ++ [])
    s.life = .constructed ∧ s.env.clock = 963593870 :: [] ∧
    s.inbox = txn (0x20000000#32 ||| (3#2).setWidth 32) (rd 1) ++ [] := ⟨rfl, rfl, rfl⟩

theorem witness_SramSurvivesThroughTheFile :
    (live 5 0 0 []).life = .constructed ∧ (live 5 0 0 []).env.takeSramSave.1 = .ok ∧ configValid cfgT = true := by decide

end Sys2Proof.Tests
end

section
/-! The statements of 00_scope.md. -/

namespace Sys2Proof.Proofs

open Sys2Proof.Machine

/-- Settles O15: the idle step and the issued step are the two branches of `step`. -/
theorem stepRunsTheDecodedOperation : Obligations.StepRunsTheDecodedOperation :=
  fun _ => ⟨step_idle, fun _ _ => step_issued⟩

end Sys2Proof.Proofs
end

section
/-! Lemmas for the statements of 10_state.md: what an operation keeps of the invariant, what it emits, and that it sees
`pos` only through its increment. -/

namespace Sys2Proof.Machine

variable {s t : State}

/-! ### Inversion of a step and of an operation -/

/-- All a step that has a next state can do: stay idle, or run the oldest issued operation. -/
theorem step_next_cases (h : step s = .next t) :
    (s.inbox = [] ∧ t = s) ∨
    ∃ op rest, s.inbox = op :: rest ∧ exec (decodeOp s.pos s.addr op) (s.setInbox rest) = .next t := by
  cases hi : s.inbox with
  | nil =>
    rw [step_idle hi] at h
    cases h
    exact .inl ⟨rfl, rfl⟩
  | cons op rest => exact .inr ⟨op, rest, rfl, (step_issued hi).symm.trans h⟩

/-- All an operation that has a next state can do: construct from a valid configuration, or update a live device. -/
theorem exec_next_cases {i : Instr} (h : exec i s = .next t) :
    (configValid s.env.takeConfig.1 = true ∧ t = s.construct s.env.takeConfig.1 s.env.takeConfig.2) ∨
    (i ≠ .construct ∧ t = effect i s) := by
  by_cases hi : i = .construct
  · subst hi
    exact .inl (exec_construct_next_iff.1 h)
  · exact .inr ⟨hi, ((exec_next_iff hi).1 h).2⟩

/-! ### The invariant -/

/-- The invariant speaks of the configuration, the three stores and the line buffer only. -/
theorem State.Inv.of_frame (h : s.Inv) (hcfg : t.cfg = s.cfg) (hrom : t.rom = s.rom) (hsram : t.sram = s.sram)
    (hrtc : t.rtc = s.rtc) (hubuf : t.ubuf = s.ubuf) : t.Inv := by
  constructor <;> simp only [hcfg, hrom, hsram, hrtc, hubuf]
  exacts [h.cfgValid, h.romWf, h.romFill, h.romWithin, h.sramWf, h.sramFill, h.sramWithin, h.rtcWf, h.rtcFill,
    h.rtcWithin, h.ubufShort]

theorem State.Inv.setRtc (h : s.Inv) {m : Memory} (hw : m.wf) (hf : m.fill = 0#8) (hn : m.within rtcSize) :
    (s.setRtc m).Inv :=
  { h with rtcWf := hw, rtcFill := hf, rtcWithin := hn }

theorem State.Inv.setSram (h : s.Inv) {m : Memory} (hw : m.wf) (hf : m.fill = 0#8) (hn : m.within sramSize) :
    (s.setSram m).Inv :=
  { h with sramWf := hw, sramFill := hf, sramWithin := hn }

theorem State.Inv.setUbuf (h : s.Inv) {line : List Byte} (hl : line.length ≤ 255) : (s.setUbuf line).Inv :=
  { h with ubufShort := hl }

theorem State.Inv.setDOut (h : s.Inv) (v : Byte) : (s.setDOut v).Inv := h.of_frame rfl rfl rfl rfl rfl

theorem State.Inv.advance (h : s.Inv) : s.advance.Inv := h.of_frame rfl rfl rfl rfl rfl

theorem State.Inv.endData (h : s.Inv) : s.endData.Inv := h.of_frame rfl rfl rfl rfl rfl

theorem State.Inv.addressByte (h : s.Inv) (d : Byte) : (s.addressByte d).Inv := h.of_frame rfl rfl rfl rfl rfl

theorem State.Inv.passThrough (h : s.Inv) (d : Byte) : (s.passThrough d).Inv := h.of_frame rfl rfl rfl rfl rfl

theorem State.Inv.latch (h : s.Inv) : s.latch.Inv :=
  (h.setRtc (rtcBytes_wf _ h.rtcWf) ((rtcBytes_fill _ _).trans h.rtcFill) (rtcBytes_within _ h.rtcWithin)).of_frame
    rfl rfl rfl rfl rfl

theorem State.Inv.rtcWrite (h : s.Inv) {k : Nat} (hk : k < rtcSize) (d : Byte) :
    (s.setRtc (s.rtc.write k d)).Inv :=
  h.setRtc (write_wf h.rtcWf _ _) ((write_fill _ _ _).trans h.rtcFill) (write_within h.rtcWithin hk _)

theorem State.Inv.sramWrite (h : s.Inv) {k : Nat} (hk : k < sramSize) (d : Byte) :
    (s.setSram (s.sram.write k d)).Inv :=
  h.setSram (write_wf h.sramWf _ _) ((write_fill _ _ _).trans h.sramFill) (write_within h.sramWithin hk _)

/-- A bound-checked access keeps the invariant when it does so at every index inside the region. -/
theorem State.Inv.bounded (h : s.Inv) {size : Nat} {f : Nat → State → State} (hf : ∀ k, k < size → (f k s).Inv)
    (base : Nat) (d : Byte) : (s.bounded size base d f).Inv := by
  obtain ⟨hk, hb⟩ | ⟨-, hb⟩ := bounded_cases s size base d f <;> rw [hb]
  · exact hf _ hk
  · exact h.of_frame rfl rfl rfl rfl rfl

/-- A line that reaches the capacity is flushed, so the buffer stays below it (10_state.md R29). -/
theorem State.Inv.uartPut (h : s.Inv) (d : Byte) : (s.uartPut d).Inv := by
  have hu := h.ubufShort
  obtain ⟨-, he⟩ | ⟨-, -, he⟩ | ⟨-, hroom, he⟩ := uartPut_cases s d <;> rw [he]
  · exact { h with ubufShort := Nat.zero_le _ }
  · exact { h with ubufShort := Nat.zero_le _ }
  · refine { h with ubufShort := ?_ }
    simp only [List.length_append, List.length_singleton]
    omega

theorem State.Inv.sramSave (h : s.Inv) : s.sramSave.Inv := by
  obtain ⟨-, he⟩ | ⟨-, he⟩ := sramSave_cases s <;> rw [he] <;> exact h.of_frame rfl rfl rfl rfl rfl

/-- Every operation's update keeps the invariant. -/
theorem State.Inv.effect (h : s.Inv) (i : Instr) : (effect i s).Inv := by
  cases i with
  | csReset => exact h.of_frame rfl rfl rfl rfl rfl
  | csActive => exact h
  | xferAddr d => exact (h.addressByte d).advance
  | xferLatch d => exact (h.addressByte d).latch.advance
  | romRd => exact (h.bounded (fun _ _ => h.setDOut _) _ _).endData
  | romWr => exact (h.bounded (fun _ _ => h.setDOut _) _ _).endData
  | rtcRd => exact (h.bounded (fun _ _ => h.setDOut _) _ _).endData
  | rtcWr => exact (h.bounded (fun _ hk => (h.rtcWrite hk _).setDOut _) _ _).endData
  | sramRd => exact (h.bounded (fun _ _ => h.setDOut _) _ _).endData
  | sramWr => exact (h.bounded (fun _ hk => (h.sramWrite hk _).setDOut _) _ _).endData
  | uartRd => exact (h.setDOut _).endData
  | uartWr _ d => exact ((h.uartPut d).setDOut d).endData
  | illRd _ d => exact (h.passThrough d).endData
  | illWr _ d => exact (h.passThrough d).endData
  | construct => exact h
  | teardown => exact (h.sramSave.setUbuf (Nat.zero_le _)).of_frame rfl rfl rfl rfl rfl

/-- A device just built from a valid configuration meets the invariant, whatever the host answered. -/
theorem State.Inv.of_fresh {fontA fontB load : LoadAnswer} (hcfg : configValid t.cfg = true)
    (hrom : t.rom = (romBuild t.cfg fontA fontB).1) (hsram : t.sram = (sramBuild t.cfg load).1)
    (hrtc : t.rtc = Memory.blank 0) (hubuf : t.ubuf = []) : t.Inv where
  cfgValid := hcfg
  romWf := hrom ▸ romBuild_wf _ _ _
  romFill := hrom ▸ romBuild_fill _ _ _
  romWithin := hrom ▸ romBuild_within hcfg _ _
  sramWf := hsram ▸ sramBuild_wf _ _
  sramFill := hsram ▸ sramBuild_fill _ _
  sramWithin := hsram ▸ sramBuild_within hcfg _
  rtcWf := hrtc ▸ blank_wf _
  rtcFill := hrtc ▸ blank_fill _
  rtcWithin := hrtc ▸ blank_within _ _
  ubufShort := by simp [hubuf]

theorem exec_keeps_inv {i : Instr} (h : s.Inv) (he : exec i s = .next t) : t.Inv := by
  obtain ⟨hc, rfl⟩ | ⟨-, rfl⟩ := exec_next_cases he
  · exact .of_fresh hc rfl rfl rfl rfl
  · exact h.effect i

/-! ### What an operation emits -/

/-- What an operation other than CONSTRUCT does to the overrun flag and the channels, from `s` to `t`: one event at
most, and the flag only with the warning of an overrun (60_exceptions.md R234). -/
inductive EmitsAtMostOne (s t : State) : Prop where
  | nothing (ovf : t.ovf = s.ovf) (log : t.log = s.log) (warn : t.warn = s.warn) (diag : t.diag = s.diag)
  | overrun (d : Byte) (eq : t = (s.raiseOverrun d).endData)
  | record (r : List Byte) (ovf : t.ovf = s.ovf) (log : t.log = s.log ++ [r]) (warn : t.warn = s.warn)
      (diag : t.diag = s.diag)
  | diagnostic (e : Diagnostic) (ovf : t.ovf = s.ovf) (log : t.log = s.log) (warn : t.warn = s.warn)
      (diag : t.diag = s.diag ++ diagnosticsOf s.cfg e)
  | saveFailed (ovf : t.ovf = s.ovf) (log : t.log = s.log) (warn : t.warn = s.warn ++ [.persistenceWriteFailure])
      (diag : t.diag = s.diag)

/-- A bound-checked access that itself emits nothing emits nothing, or is the overrun. -/
theorem bounded_emits {size base : Nat} {d : Byte} {f : Nat → State → State}
    (hf : ∀ k, (f k s).ovf = s.ovf ∧ (f k s).log = s.log ∧ (f k s).warn = s.warn ∧ (f k s).diag = s.diag) :
    EmitsAtMostOne s (s.bounded size base d f).endData := by
  obtain ⟨-, hb⟩ | ⟨-, hb⟩ := bounded_cases s size base d f <;> rw [hb]
  · obtain ⟨ovf, log, warn, diag⟩ := hf (s.index base)
    exact .nothing ovf log warn diag
  · exact .overrun d rfl

theorem uartWrite_emits (d : Byte) : EmitsAtMostOne s ((s.uartPut d).setDOut d).endData := by
  obtain ⟨-, he⟩ | ⟨-, -, he⟩ | ⟨-, -, he⟩ := uartPut_cases s d <;> rw [he]
  · exact .record _ rfl rfl rfl rfl
  · exact .record _ rfl rfl rfl rfl
  · exact .nothing rfl rfl rfl rfl

theorem teardown_emits : EmitsAtMostOne s ((s.sramSave.setUbuf []).setLife .tornDown) := by
  obtain ⟨-, he⟩ | ⟨-, he⟩ := sramSave_cases s <;> rw [he]
  · exact .nothing rfl rfl rfl rfl
  · exact .saveFailed rfl rfl rfl rfl

/-- All an operation other than CONSTRUCT emits. -/
theorem effect_emits (i : Instr) (s : State) : EmitsAtMostOne s (effect i s) := by
  cases i with
  | csReset => exact .nothing rfl rfl rfl rfl
  | csActive => exact .nothing rfl rfl rfl rfl
  | xferAddr => exact .nothing rfl rfl rfl rfl
  | xferLatch => exact .diagnostic _ rfl rfl rfl rfl
  | romRd => exact bounded_emits fun _ => ⟨rfl, rfl, rfl, rfl⟩
  | romWr => exact bounded_emits fun _ => ⟨rfl, rfl, rfl, rfl⟩
  | rtcRd => exact bounded_emits fun _ => ⟨rfl, rfl, rfl, rfl⟩
  | rtcWr => exact bounded_emits fun _ => ⟨rfl, rfl, rfl, rfl⟩
  | sramRd => exact bounded_emits fun _ => ⟨rfl, rfl, rfl, rfl⟩
  | sramWr => exact bounded_emits fun _ => ⟨rfl, rfl, rfl, rfl⟩
  | uartRd => exact .nothing rfl rfl rfl rfl
  | uartWr _ d => exact uartWrite_emits d
  | illRd => exact .diagnostic _ rfl rfl rfl rfl
  | illWr => exact .diagnostic _ rfl rfl rfl rfl
  | construct => exact .nothing rfl rfl rfl rfl
  | teardown => exact teardown_emits

theorem EmitsAtMostOne.prefixes (h : EmitsAtMostOne s t) :
    s.log <+: t.log ∧ s.warn <+: t.warn ∧ s.diag <+: t.diag := by
  cases h with
  | nothing _ log warn diag => simp [log, warn, diag]
  | overrun d eq => simp [eq, endData_eq, raiseOverrun_eq]
  | record r _ log warn diag => simp [log, warn, diag]
  | diagnostic e _ log warn diag => simp [log, warn, diag]
  | saveFailed _ log warn diag => simp [log, warn, diag]

theorem EmitsAtMostOne.length_le (h : EmitsAtMostOne s t) :
    t.log.length + t.warn.length + t.diag.length ≤ s.log.length + s.warn.length + s.diag.length + 1 := by
  cases h with
  | nothing _ log warn diag => simp [log, warn, diag]
  | overrun d eq =>
    simp only [eq, endData_eq, raiseOverrun_eq, List.length_append, List.length_singleton]
    omega
  | record r _ log warn diag =>
    simp only [log, warn, diag, List.length_append, List.length_singleton]
    omega
  | diagnostic e _ log warn diag =>
    have := diagnosticsOf_length s.cfg e
    simp only [log, warn, diag, List.length_append]
    omega
  | saveFailed _ log warn diag =>
    simp only [log, warn, diag, List.length_append, List.length_singleton]
    omega

/-- A release build adds nothing to the diagnostics (10_state.md R31). -/
theorem EmitsAtMostOne.diag_eq_of_release (h : EmitsAtMostOne s t) (hc : s.cfg.diagBuild = false) :
    t.diag = s.diag := by
  cases h with
  | nothing _ _ _ diag => exact diag
  | overrun d eq => simp [eq, endData_eq, raiseOverrun_eq]
  | record _ _ _ _ diag => exact diag
  | diagnostic e _ _ _ diag => simp [diag, diagnosticsOf_release hc]
  | saveFailed _ _ _ diag => exact diag

/-- The flag changes only as part of the whole overrun (10_state.md R30). -/
theorem EmitsAtMostOne.ovf_cases (h : EmitsAtMostOne s t) :
    t.ovf = s.ovf ∨ ∃ d, t = (s.raiseOverrun d).endData := by
  cases h with
  | nothing ovf => exact .inl ovf
  | overrun d eq => exact .inr ⟨d, eq⟩
  | record _ ovf => exact .inl ovf
  | diagnostic _ ovf => exact .inl ovf
  | saveFailed ovf => exact .inl ovf

theorem exec_keeps_channels {i : Instr} (h : exec i s = .next t) :
    s.log <+: t.log ∧ s.warn <+: t.warn ∧ s.diag <+: t.diag := by
  obtain ⟨-, rfl⟩ | ⟨-, rfl⟩ := exec_next_cases h
  · exact ⟨List.prefix_rfl, List.prefix_append _ _, List.prefix_rfl⟩
  · exact (effect_emits i s).prefixes

/-- What R135 asks of an overrun, read off the fault action. -/
theorem overruns_of_exec_eq {i : Instr} {d : Byte} (h : exec i s = .next (s.raiseOverrun d).endData) :
    Overruns i s :=
  ⟨_, h, rfl, rfl, rfl, rfl, rfl, rfl, rfl, rfl, rfl, rfl, rfl, rfl, rfl, rfl, rfl, rfl⟩

/-! ### The position counter -/

/-- `F` neither reads nor moves `pos`. -/
def PosBlind (F : State → State) : Prop := ∀ s p, F (s.setPos p) = (F s).setPos p

theorem PosBlind.pos_eq {F : State → State} (h : PosBlind F) (s : State) : (F s).pos = s.pos :=
  (congrArg State.pos (h s s.pos) :)

theorem PosBlind.saturated {F : State → State} (h : PosBlind F) (s : State) : F s.saturated = (F s).saturated := by
  rw [State.saturated, State.saturated, h, h.pos_eq]

theorem bounded_posBlind (size base : Nat) (d : Byte) {f : Nat → State → State} (hf : ∀ k, PosBlind (f k)) :
    PosBlind fun s => s.bounded size base d f := by
  intro s p
  obtain ⟨hk, hb⟩ | ⟨hk, hb⟩ := bounded_cases s size base d f
  · simp only [hb, bounded_inside (s := s.setPos p) hk]
    exact hf _ s p
  · simp only [hb, bounded_outside (s := s.setPos p) hk]
    rfl

theorem uartPut_posBlind (d : Byte) : PosBlind fun s => s.uartPut d := by
  intro s p
  obtain ⟨rfl, he⟩ | ⟨hd, hfull, he⟩ | ⟨hd, hroom, he⟩ := uartPut_cases s d <;> simp only [he]
  · exact uartPut_terminator _
  · exact uartPut_full hd hfull
  · exact uartPut_room hd hroom

theorem sramSave_posBlind : PosBlind State.sramSave := by
  intro s p
  simp only [State.sramSave, setPos_env]
  cases s.env.takeSramSave.1 <;> rfl

theorem saturated_saturated (s : State) : s.saturated.saturated = s.saturated := by
  simp [State.saturated, State.setPos]

/-- R106 on a saturating counter. -/
theorem advance_saturated (s : State) : s.saturated.advance.saturated = s.advance.saturated := by
  have h : min (min s.pos 4 + 1) 4 = min (s.pos + 1) 4 := by omega
  simp [State.saturated, State.advance, State.setPos, h]

/-- A transfer sees `pos` through its increment only. -/
theorem PosBlind.advance_saturated {F : State → State} (h : PosBlind F) (s : State) :
    (F s.saturated).advance.saturated = (F s).advance.saturated := by
  rw [h.saturated, Machine.advance_saturated]

/-- The same for a data-phase byte, whose end moves `off` besides. -/
theorem PosBlind.endData_saturated {F : State → State} (h : PosBlind F) (s : State) :
    (F s.saturated).endData.saturated = (F s).endData.saturated :=
  PosBlind.advance_saturated (F := fun s => (F s).setOff ((F s).off + 1)) (fun s p => by simp only [h s p]; rfl) s

theorem bounded_saturated {size base : Nat} {d : Byte} {f : Nat → State → State} (hf : ∀ k, PosBlind (f k))
    (s : State) :
    (s.saturated.bounded size base d f).endData.saturated = (s.bounded size base d f).endData.saturated :=
  (bounded_posBlind size base d hf).endData_saturated s

theorem effect_saturated (i : Instr) (s : State) : (effect i s.saturated).saturated = (effect i s).saturated := by
  cases i with
  | csReset => rfl
  | csActive => exact saturated_saturated s
  | xferAddr d => exact PosBlind.advance_saturated (F := fun s => s.addressByte d) (fun _ _ => rfl) s
  | xferLatch d => exact PosBlind.advance_saturated (F := fun s => (s.addressByte d).latch) (fun _ _ => rfl) s
  | romRd | romWr | rtcRd | rtcWr | sramRd | sramWr =>
    exact bounded_saturated (fun _ _ _ => rfl) s
  | uartRd => exact PosBlind.endData_saturated (F := fun s => s.setDOut uartStatus) (fun _ _ => rfl) s
  | uartWr _ d =>
    exact PosBlind.endData_saturated (F := fun s => (s.uartPut d).setDOut d)
      (fun s p => congrArg (State.setDOut · d) (uartPut_posBlind d s p)) s
  | illRd _ d | illWr _ d => exact PosBlind.endData_saturated (F := fun s => s.passThrough d) (fun _ _ => rfl) s
  | construct => exact saturated_saturated s
  | teardown =>
    have h : PosBlind fun s => (s.sramSave.setUbuf []).setLife .tornDown := fun s p =>
      congrArg (fun t => (State.setUbuf t []).setLife .tornDown) (sramSave_posBlind s p)
    simp only [effect, h.saturated s, saturated_saturated]

theorem exec_saturated (i : Instr) (s : State) :
    mapNext State.saturated (exec i s.saturated) = mapNext State.saturated (exec i s) := by
  by_cases hi : i = .construct
  · subst hi
    rfl
  · rw [exec_eq_whenLive hi, exec_eq_whenLive hi]
    by_cases hl : s.life = .constructed
    · rw [whenLive_live hl, whenLive_live (s := s.saturated) hl]
      exact congrArg Host.Outcome.next (effect_saturated i s)
    · rw [whenLive_dead hl, whenLive_dead (s := s.saturated) hl]

/-- The opcode map tells 0 to 3 and "4 or more" apart, and no more (30_encoding.md R80). -/
theorem decodeOp_saturated (p : Nat) (a : Word) (op : BusOp) : decodeOp (min p 4) a op = decodeOp p a op := by
  cases op with
  | xfer d =>
    obtain hp | hp := Nat.le_total p 4
    · rw [Nat.min_eq_left hp]
    · simp only [decodeOp, Nat.min_eq_right hp, decodeXfer_data hp, decodeXfer_data (Nat.le_refl 4)]
  | cs | construct | teardown => rfl

theorem step_saturated (s : State) :
    mapNext State.saturated (step s.saturated) = mapNext State.saturated (step s) := by
  cases hi : s.inbox with
  | nil =>
    rw [step_idle hi, step_idle (s := s.saturated) hi]
    exact congrArg Host.Outcome.next (saturated_saturated s)
  | cons op rest =>
    rw [step_issued hi, step_issued (s := s.saturated) hi,
      show decodeOp s.saturated.pos s.saturated.addr op = decodeOp s.pos s.addr op from decodeOp_saturated _ _ _]
    exact exec_saturated _ (s.setInbox rest)

theorem mapNext_eq_next {f : State → State} {o : Host.Outcome State Fault Refusal} {u : State}
    (h : mapNext f o = .next u) : ∃ t, o = .next t ∧ f t = u := by
  cases o with
  | next t =>
    cases h
    exact ⟨t, rfl, rfl⟩
  | fault f => exact nomatch f
  | refused r => cases h

theorem mapNext_eq_refused {f : State → State} {o : Host.Outcome State Fault Refusal} {r : Refusal}
    (h : mapNext f o = .refused r) : o = .refused r := by
  cases o with
  | next t => cases h
  | fault f => exact nomatch f
  | refused r => cases h; rfl

theorem run_saturated (n : Nat) (s : State) :
    mapNext State.saturated (run n s) = mapNext State.saturated (run n s.saturated) := by
  induction n generalizing s with
  | zero => exact congrArg Host.Outcome.next (saturated_saturated s).symm
  | succ n ih =>
    have h := step_saturated s
    cases hs : step s with
    | next t =>
      obtain ⟨u, hu, hut⟩ := mapNext_eq_next (h.trans (congrArg _ hs))
      rw [run_succ_next hs, run_succ_next hu, ih t, ih u, hut]
    | fault f => exact nomatch f
    | refused r => rw [run_succ_refused hs, run_succ_refused (mapNext_eq_refused (h.trans (congrArg _ hs)))]

/-! ### The bytes CONSTRUCT leaves -/

/-- A font that is placed stands over what was there (44_rom.md R191). -/
theorem fontPlace_read (n : Nat) (k : Font) (o : Nat) (r : LoadAnswer) (m : Memory) (j : Nat) :
    (fontPlace n k o r m).1.read j = (fontByte n o r j).getD (m.read j) := by
  cases r with
  | fail => rfl
  | ok blob =>
    by_cases hn : o + blob.length ≤ n
    · by_cases hj : o ≤ j <;> simp [fontPlace, fontByte, hn, hj, read_writeAll]
    · simp [fontPlace, fontByte, hn]

/-- The ROM image: font B over font A over the version string over ROM_FILL (44_rom.md R190). -/
theorem romBuild_read (c : Config) (fontA fontB : LoadAnswer) (j : Nat) :
    (romBuild c fontA fontB).1.read j =
      (fontByte c.romSize c.fontBOffset fontB j).getD
        ((fontByte c.romSize c.fontAOffset fontA j).getD (c.versionString.getD j c.romFill)) := by
  simp [romBuild, romText, fontPlace_read, read_writeAll]

/-- The load writes its source from index 0 (42_sram.md R151). -/
theorem sramLoad_eq (c : Config) (r : LoadAnswer) :
    (sramLoad c r).1 = (Memory.blank 0).writeAll 0 (sramSource c r) := by
  cases r with
  | fail => rfl
  | ok bytes => by_cases h : 64 ≤ bytes.length <;> simp [sramLoad, sramSource, sramSize, h]

theorem sramSource_length {c : Config} (h : configValid c = true) (r : LoadAnswer) : (sramSource c r).length = 64 := by
  obtain ⟨-, -, -, -, -, ht⟩ := (configValid_iff c).1 h
  cases r with
  | fail => exact ht
  | ok bytes => by_cases hb : 64 ≤ bytes.length <;> simp [sramSource, hb, ht]

theorem sramLoad_read {c : Config} (h : configValid c = true) (r : LoadAnswer) {k : Nat} (hk : k < 64) :
    some ((sramLoad c r).1.read k) = (sramSource c r)[k]? := by
  have hl : k < (sramSource c r).length := by rwa [sramSource_length h]
  simp [sramLoad_eq, read_writeAll, hl]

/-- The SRAM after construction: LANG at 0x12, else the source's byte (42_sram.md R152). -/
theorem sramBuild_read_source {c : Config} (h : configValid c = true) (r : LoadAnswer) {k : Nat} (hk : k < 64) :
    some ((sramBuild c r).1.read k) = if k = 0x12 then some c.lang else (sramSource c r)[k]? := by
  rw [sramBuild_read, ← sramLoad_read h r hk]
  split <;> rfl

end Sys2Proof.Machine
end

section
/-! The statements of 10_state.md. -/

namespace Sys2Proof.Proofs

open Sys2Proof.Machine

/-- Settles O47: an idle step changes nothing, an issued one runs an operation, and every operation keeps the
invariant. -/
theorem stepKeepsTheInvariant : Obligations.StepKeepsTheInvariant := by
  intro s t hs h
  obtain ⟨-, rfl⟩ | ⟨op, rest, -, he⟩ := step_next_cases h
  · exact hs
  · have hs' : (s.setInbox rest).Inv := hs.of_frame rfl rfl rfl rfl rfl
    exact exec_keeps_inv hs' he

/-- Settles O1: the step is CONSTRUCT's whole update, and its two images read as built. -/
theorem constructLeavesTheResetTable : Obligations.ConstructLeavesTheResetTable := by
  intro s c e hce hc
  have hexec : exec .construct s = .next (s.construct c e) :=
    exec_construct_next_iff.2 (by rw [hce]; exact ⟨hc, rfl⟩)
  exact ⟨_, hexec, rfl, rfl, rfl, blank_read 0, rfl, rfl, rfl, rfl, romBuild_read c _ _,
    fun _ => sramBuild_read_source hc _, rfl, rfl, rfl, rfl⟩

/-- Settles O42: an operation leaves the flag as it was, or is the whole overrun. -/
theorem overrunFlagIsSticky : Obligations.OverrunFlagIsSticky := by
  intro i s t hi h
  obtain ⟨-, rfl⟩ := (exec_next_iff hi).1 h
  obtain hsame | ⟨d, hover⟩ := (effect_emits i s).ovf_cases
  · exact ⟨hsame.trans, fun hf ht => absurd (hsame.symm.trans ht) (by simp [hf])⟩
  · rw [hover] at h ⊢
    exact ⟨fun _ => rfl, fun _ _ => overruns_of_exec_eq h⟩

/-- Settles O43: every operation appends to the channels, and a data-phase operation is one that emits at most one
event. -/
theorem channelsOnlyGrow : Obligations.ChannelsOnlyGrow := by
  refine ⟨fun s t h => ?_, fun a d s t h => ?_⟩
  · obtain ⟨-, rfl⟩ | ⟨op, rest, -, he⟩ := step_next_cases h
    · exact ⟨List.prefix_rfl, List.prefix_rfl, List.prefix_rfl⟩
    · exact exec_keeps_channels (s := s.setInbox rest) he
  · obtain ⟨-, rfl⟩ := (exec_next_iff (decodeData_ne_construct a d)).1 h
    exact (effect_emits _ s).length_le

/-- Settles O46: of what an operation emits, a diagnostic is nothing in a release build. -/
theorem releaseBuildsEmitNoDiagnostics : Obligations.ReleaseBuildsEmitNoDiagnostics := by
  intro i s t hi hc hd h
  obtain ⟨-, rfl⟩ := (exec_next_iff hi).1 h
  exact ((effect_emits i s).diag_eq_of_release hc).trans hd

/-- Settles O48, by induction on the length of the run: a step from the saturated state goes where the step from the
state does, up to saturation. -/
theorem saturatingPositionIsEquivalent : Obligations.SaturatingPositionIsEquivalent := run_saturated

/-- Settles O7: the reset state is freshly built from the build's own configuration, which is valid. -/
theorem resetMeetsInvariant : Obligations.ResetMeetsInvariant :=
  .of_fresh implementation_valid rfl rfl rfl rfl

end Sys2Proof.Proofs
end

section
/-! Lemmas for the statements of 20_memory.md: the rows of the address map, what a data-phase byte reaches, and which
operations leave the backing file alone. -/

namespace Sys2Proof.Machine

variable {s t : State}

/-! ### The address map -/

/-- The pattern mask covers the ROM class bits, so a word under a pattern with bits 30:29 not 00 is no ROM word. -/
theorem romClass_ne_zero_of_pattern {a p : Word} (h : a &&& 0x7FFFFF00#32 = p) (hp : p &&& 0x60000000#32 ≠ 0#32) :
    a &&& 0x60000000#32 ≠ 0#32 := by
  intro hrom
  apply hp
  calc p &&& 0x60000000#32
      = a &&& (0x7FFFFF00#32 &&& 0x60000000#32) := by rw [← h, BitVec.and_assoc]
    _ = 0#32 := hrom

theorem regionOf_of_rom {a : Word} (h : a &&& 0x60000000#32 = 0#32) : regionOf a = .rom := by
  simp [regionOf, h]

theorem regionOf_of_rtc {a : Word} (h : a &&& 0x7FFFFF00#32 = 0x20000000#32) : regionOf a = .rtc := by
  simp [regionOf, romClass_ne_zero_of_pattern h (by decide), h]

theorem regionOf_of_sram {a : Word} (h : a &&& 0x7FFFFF00#32 = 0x20000100#32) : regionOf a = .sram := by
  simp [regionOf, romClass_ne_zero_of_pattern h (by decide), h]

theorem regionOf_of_uart {a : Word} (h : a &&& 0x7FFFFF00#32 = 0x20010000#32) : regionOf a = .uart := by
  simp [regionOf, romClass_ne_zero_of_pattern h (by decide), h]

theorem regionOf_of_illegal {a : Word} (hrom : a &&& 0x60000000#32 ≠ 0#32)
    (hrtc : a &&& 0x7FFFFF00#32 ≠ 0x20000000#32) (hsram : a &&& 0x7FFFFF00#32 ≠ 0x20000100#32)
    (huart : a &&& 0x7FFFFF00#32 ≠ 0x20010000#32) : regionOf a = .illegal := by
  simp [regionOf, hrom, hrtc, hsram, huart]

theorem decodeAddress_of_rom {a : Word} (h : regionOf a = .rom) (m : Nat) :
    decodeAddress m a = (.rom, (a >>> 6).toNat &&& m) := by
  simp [decodeAddress, h]

theorem decodeAddress_of_rtc {a : Word} (h : regionOf a = .rtc) (m : Nat) :
    decodeAddress m a = (.rtc, (a &&& 0x03#32).toNat) := by
  simp [decodeAddress, h]

theorem decodeAddress_of_sram {a : Word} (h : regionOf a = .sram) (m : Nat) :
    decodeAddress m a = (.sram, (a &&& 0x3F#32).toNat) := by
  simp [decodeAddress, h]

/-- The direction as a number's size (10_state.md R23). -/
theorem isWrite_eq_decide (a : Word) : isWrite a = decide (2 ^ 31 ≤ a.toNat) :=
  BitVec.msb_eq_decide a

/-! ### A data-phase byte -/

/-- All a data-phase byte under region `r` and direction `w` (true for write) does from `s` to `t`: it counts itself,
returns a byte and may emit an event; and a write may change the bytes of its own region, or the line buffer and the
log (20_memory.md R54). -/
inductive DataUpdate (r : Region) (w : Bool) (s t : State) : Prop where
  | passive (ovf : Bool) (warn : List Warning) (diag : List Diagnostic) (dOut : Option Byte)
      (eq : t = { s with
        pos := s.pos + 1, off := s.off + 1, ovf := ovf, warn := warn, diag := diag, dOut := dOut })
  | rtcWrite (region : r = .rtc) (dir : w = true) (m : Memory) (d : Byte)
      (eq : t = { s with pos := s.pos + 1, off := s.off + 1, rtc := m, dOut := some d })
  | sramWrite (region : r = .sram) (dir : w = true) (m : Memory) (d : Byte)
      (eq : t = { s with pos := s.pos + 1, off := s.off + 1, sram := m, dOut := some d })
  | uartWrite (region : r = .uart) (dir : w = true) (line : List Byte) (log : List (List Byte)) (d : Byte)
      (eq : t = { s with pos := s.pos + 1, off := s.off + 1, ubuf := line, log := log, dOut := some d })

/-- A bound-checked access is a data update when it is one inside the region: an overrun reaches nothing. -/
theorem DataUpdate.bounded {r : Region} {w : Bool} {size base : Nat} {d : Byte} {f : Nat → State → State}
    (hf : ∀ k, DataUpdate r w s (f k s).endData) : DataUpdate r w s (s.bounded size base d f).endData := by
  obtain ⟨-, hb⟩ | ⟨-, hb⟩ := bounded_cases s size base d f <;> rw [hb]
  · exact hf _
  · exact .passive _ _ _ _ rfl

theorem DataUpdate.uartPut (d : Byte) : DataUpdate .uart true s ((s.uartPut d).setDOut d).endData := by
  rw [uartPut_frame]
  exact .uartWrite rfl rfl _ _ _ rfl

/-- The operation that a latched word selects is a data update under that word's region and direction. -/
theorem effect_decodeData_update (a : Word) (d : Byte) (s : State) :
    DataUpdate (regionOf a) (isWrite a) s (effect (decodeData a d) s) := by
  unfold decodeData
  cases regionOf a with
  | rom => cases isWrite a <;> exact .bounded fun _ => .passive _ _ _ _ rfl
  | rtc =>
    cases isWrite a with
    | false => exact .bounded fun _ => .passive _ _ _ _ rfl
    | true => exact .bounded fun _ => .rtcWrite rfl rfl _ _ rfl
  | sram =>
    cases isWrite a with
    | false => exact .bounded fun _ => .passive _ _ _ _ rfl
    | true => exact .bounded fun _ => .sramWrite rfl rfl _ _ rfl
  | uart =>
    cases isWrite a with
    | false => exact .passive _ _ _ _ rfl
    | true => exact .uartPut d
  | illegal => cases isWrite a <;> exact .passive _ _ _ _ rfl

section
variable {r : Region} {w : Bool}

theorem DataUpdate.readByte_of_ne (h : DataUpdate r w s t) {q : Region} (hq : q ≠ r) (j : Nat) :
    t.readByte q j = s.readByte q j := by
  cases h with
  | passive _ _ _ _ eq => subst eq; rfl
  | rtcWrite region _ _ _ eq =>
    subst eq region
    cases q with
    | rtc => exact absurd rfl hq
    | rom | sram | uart | illegal => rfl
  | sramWrite region _ _ _ eq =>
    subst eq region
    cases q with
    | sram => exact absurd rfl hq
    | rom | rtc | uart | illegal => rfl
  | uartWrite _ _ _ _ _ eq => subst eq; rfl

/-- A byte in read direction reaches no region, no line and no record. -/
theorem DataUpdate.reads (h : DataUpdate r false s t) :
    (∀ q j, t.readByte q j = s.readByte q j) ∧ t.ubuf = s.ubuf ∧ t.log = s.log := by
  cases h with
  | passive _ _ _ _ eq => subst eq; exact ⟨fun _ _ => rfl, rfl, rfl⟩
  | rtcWrite _ dir | sramWrite _ dir | uartWrite _ dir => cases dir

theorem DataUpdate.line_of_ne_uart (h : DataUpdate r w s t) (hr : r ≠ .uart) : t.ubuf = s.ubuf ∧ t.log = s.log := by
  cases h with
  | passive _ _ _ _ eq | rtcWrite _ _ _ _ eq | sramWrite _ _ _ _ eq => subst eq; exact ⟨rfl, rfl⟩
  | uartWrite region => exact absurd region hr

/-- What every data-phase byte leaves alone, and the offset it moves by one (40_transaction_controller.md R105). -/
theorem DataUpdate.frame (h : DataUpdate r w s t) :
    t.addr = s.addr ∧ t.off = s.off + 1 ∧ t.life = s.life ∧ t.file = s.file ∧ t.env = s.env ∧ t.inbox = s.inbox := by
  cases h with
  | passive _ _ _ _ eq | rtcWrite _ _ _ _ eq | sramWrite _ _ _ _ eq | uartWrite _ _ _ _ _ eq =>
    subst eq
    exact ⟨rfl, rfl, rfl, rfl, rfl, rfl⟩

end

/-! ### The backing file -/

/-- A bound-checked access reaches the file no more than the access itself does. -/
theorem bounded_file {size base : Nat} {d : Byte} {f : Nat → State → State} (hf : ∀ k, (f k s).file = s.file) :
    (s.bounded size base d f).file = s.file := by
  obtain ⟨-, hb⟩ | ⟨-, hb⟩ := bounded_cases s size base d f <;> rw [hb]
  · exact hf _
  · rfl

theorem uartPut_file (d : Byte) : (s.uartPut d).file = s.file := by
  rw [uartPut_frame]

/-- No update but TEARDOWN's reaches the backing file (20_memory.md R63). -/
theorem effect_file_of_ne_teardown {i : Instr} (hi : i ≠ .teardown) (s : State) : (effect i s).file = s.file := by
  cases i with
  | csReset | csActive | xferAddr | xferLatch | uartRd | illRd | illWr | construct => rfl
  | romRd | romWr | rtcRd | rtcWr | sramRd | sramWr => exact bounded_file fun _ => rfl
  | uartWr _ d => exact uartPut_file d
  | teardown => exact absurd rfl hi

/-- A save that does not succeed leaves the file (42_sram.md R153; log 8). -/
theorem sramSave_file_of_ne_ok (h : s.env.takeSramSave.1 ≠ .ok) : s.sramSave.file = s.file := by
  obtain ⟨hok, -⟩ | ⟨-, he⟩ := sramSave_cases s
  · exact absurd hok h
  · rw [he]

end Sys2Proof.Machine
end

section
/-! The statements of 20_memory.md. -/

namespace Sys2Proof.Proofs

open Sys2Proof.Machine

/-- Settles O41: the operation is one data update, of the latched word's own region and direction. -/
theorem dataByteTouchesOnlyItsRegion : Obligations.DataByteTouchesOnlyItsRegion := by
  intro s t a d h
  obtain ⟨-, rfl⟩ := (exec_next_iff (decodeData_ne_construct a d)).1 h
  have hu := effect_decodeData_update a d s
  exact ⟨fun _ j hq => hu.readByte_of_ne hq j, fun hread => (hread ▸ hu).reads, hu.line_of_ne_uart, hu.frame⟩

/-- Settles O45: CONSTRUCT keeps the file, every other operation but TEARDOWN keeps it, and TEARDOWN's save keeps it
unless it succeeds. -/
theorem onlyTeardownReachesTheFile : Obligations.OnlyTeardownReachesTheFile := by
  intro i s t h hfile
  obtain ⟨-, rfl⟩ | ⟨-, rfl⟩ := exec_next_cases h
  · exact absurd rfl hfile
  · have hi : i = .teardown := by
      by_contra hi
      exact hfile (effect_file_of_ne_teardown hi s)
    subst hi
    refine ⟨rfl, ?_⟩
    by_contra hok
    exact hfile (sramSave_file_of_ne_ok hok)

/-- Settles O8: each row's pattern fixes the region, and the region the base. -/
theorem addressMapDecodesEachRegion : Obligations.AddressMapDecodesEachRegion := by
  intro m a
  exact ⟨fun h => decodeAddress_of_rom (regionOf_of_rom h) m,
    fun h => decodeAddress_of_rtc (regionOf_of_rtc h) m,
    fun h => decodeAddress_of_sram (regionOf_of_sram h) m,
    fun h => (decodeAddress_region m a).trans (regionOf_of_uart h),
    fun hrom hrtc hsram huart => (decodeAddress_region m a).trans (regionOf_of_illegal hrom hrtc hsram huart),
    isWrite_eq_decide a⟩

end Sys2Proof.Proofs
end

section
/-! Lemmas for the statements of 30_encoding.md: each region's words by their fields, the operation a word selects, its
base, and the composed word and bytes in both directions. -/

namespace Sys2Proof.Machine

variable {a : Word} {d : Byte}

/-! ### The regions by fields (R73 to R78) -/

theorem regionOf_eq_rom_iff : regionOf a = .rom ↔ a.extractLsb' 29 2 = 0#2 := by
  refine ⟨fun h => ?_, fun h => regionOf_of_rom ((romClass_iff a).2 h)⟩
  rw [regionOf_eq] at h
  split_ifs at h with hrom
  exact hrom

theorem regionOf_eq_rtc_iff : regionOf a = .rtc ↔ a.extractLsb' 8 23 = 0x200000#23 := by
  refine ⟨fun h => ?_, fun h => regionOf_of_rtc ((pattern_iff a _).2 h)⟩
  rw [regionOf_eq] at h
  split_ifs at h with _ hrtc
  exact hrtc

theorem regionOf_eq_sram_iff : regionOf a = .sram ↔ a.extractLsb' 8 23 = 0x200001#23 := by
  refine ⟨fun h => ?_, fun h => regionOf_of_sram ((pattern_iff a _).2 h)⟩
  rw [regionOf_eq] at h
  split_ifs at h with _ _ hsram
  exact hsram

theorem regionOf_eq_uart_iff : regionOf a = .uart ↔ a.extractLsb' 8 23 = 0x200100#23 := by
  refine ⟨fun h => ?_, fun h => regionOf_of_uart ((pattern_iff a _).2 h)⟩
  rw [regionOf_eq] at h
  split_ifs at h with _ _ _ huart
  exact huart

/-! ### The operation a word selects (R80) -/

theorem decodeData_of_rom (h : regionOf a = .rom) : decodeData a d =
    if isWrite a then .romWr (a.extractLsb' 6 23) (a.extractLsb' 0 6) d
    else .romRd (a.extractLsb' 6 23) (a.extractLsb' 0 6) d := by
  unfold decodeData
  rw [h]
  cases isWrite a <;> rfl

theorem decodeData_of_rtc (h : regionOf a = .rtc) : decodeData a d =
    if isWrite a then .rtcWr (a.extractLsb' 2 6) (a.extractLsb' 0 2) d
    else .rtcRd (a.extractLsb' 2 6) (a.extractLsb' 0 2) d := by
  unfold decodeData
  rw [h]
  cases isWrite a <;> rfl

theorem decodeData_of_sram (h : regionOf a = .sram) : decodeData a d =
    if isWrite a then .sramWr (a.extractLsb' 6 2) (a.extractLsb' 0 6) d
    else .sramRd (a.extractLsb' 6 2) (a.extractLsb' 0 6) d := by
  unfold decodeData
  rw [h]
  cases isWrite a <;> rfl

theorem decodeData_of_uart (h : regionOf a = .uart) : decodeData a d =
    if isWrite a then .uartWr (a.extractLsb' 0 8) d else .uartRd (a.extractLsb' 0 8) d := by
  unfold decodeData
  rw [h]
  cases isWrite a <;> rfl

theorem decodeData_of_illegal (h : regionOf a = .illegal) : decodeData a d =
    if isWrite a then .illWr (a.extractLsb' 0 31) d else .illRd (a.extractLsb' 0 31) d := by
  unfold decodeData
  rw [h]
  cases isWrite a <;> rfl

/-! ### From the composed word back to the operation -/

theorem decodeData_rom_word {D : BitVec 3} (hD : D.extractLsb' 0 2 = 0#2) (i : BitVec 23) (x : BitVec 6) (d : Byte) :
    decodeData (D ++ i ++ x) d = if D.getLsbD 2 then .romWr i x d else .romRd i x d := by
  obtain ⟨hi, hx, hclass, hdir⟩ := rom_word_fields D i x
  rw [decodeData_of_rom (regionOf_eq_rom_iff.2 (hclass.trans hD)), hi, hx, hdir]

theorem decodeData_rtc_word {p : BitVec 24} (hp : p.extractLsb' 0 23 = 0x200000#23) (x : BitVec 6) (b : BitVec 2)
    (d : Byte) : decodeData (p ++ x ++ b) d = if p.getLsbD 23 then .rtcWr x b d else .rtcRd x b d := by
  obtain ⟨hx, hb, hpat, -, hdir⟩ := word_fields_6_2 p x b
  rw [decodeData_of_rtc (regionOf_eq_rtc_iff.2 (hpat.trans hp)), hx, hb, hdir]

theorem decodeData_sram_word {p : BitVec 24} (hp : p.extractLsb' 0 23 = 0x200001#23) (x : BitVec 2) (b : BitVec 6)
    (d : Byte) : decodeData (p ++ x ++ b) d = if p.getLsbD 23 then .sramWr x b d else .sramRd x b d := by
  obtain ⟨hx, hb, hpat, -, hdir⟩ := word_fields_2_6 p x b
  rw [decodeData_of_sram (regionOf_eq_sram_iff.2 (hpat.trans hp)), hx, hb, hdir]

theorem decodeData_uart_word {p : BitVec 24} (hp : p.extractLsb' 0 23 = 0x200100#23) (x : BitVec 8) (d : Byte) :
    decodeData (p ++ x) d = if p.getLsbD 23 then .uartWr x d else .uartRd x d := by
  obtain ⟨hx, hpat, -, hdir⟩ := word_fields_8 p x
  rw [decodeData_of_uart (regionOf_eq_uart_iff.2 (hpat.trans hp)), hx, hdir]

/-- The Illegal rows take every word whose bits match no pattern (R78). -/
theorem decodeData_illegal_word {w : BitVec 31} (hw : isIllegalAddress w = true) (D : BitVec 1) (d : Byte) :
    decodeData (D ++ w) d = if D.getLsbD 0 then .illWr w d else .illRd w d := by
  obtain ⟨haddr, -, -, hdir⟩ := illegal_word_fields D w
  rw [decodeData_of_illegal ((isIllegalAddress_iff D w).1 hw), haddr, hdir]

/-- Bytes in the data phase are decoded as the word and the data byte they lay out (R52, log 12). -/
theorem decodeBytes_wordBytes {pos : Nat} (h : 4 ≤ pos) (a : Word) (d : Byte) :
    decodeBytes (.xfer pos) (wordBytes a d) = .ok (decodeData a d) := by
  simp [decodeBytes, wordBytes, be32_bytes, Nat.not_lt.2 h]

/-- An operation that its composed word selects is read back from its bytes. -/
theorem decodeBytes_of_decodeData_wordOf {i : Instr} (h : decodeData (wordOf i) d = i) :
    decodeBytes (.xfer 4) (wordBytes (wordOf i) d) = .ok i :=
  (decodeBytes_wordBytes (Nat.le_refl 4) _ d).trans (congrArg Except.ok h)

theorem decodeBytes_encode {i : Instr} (h : wellFormed i = true) : decodeBytes (selectorOf i) (encode i) = .ok i := by
  cases i with
  | csReset | csActive | xferAddr | xferLatch | construct | teardown => rfl
  | romRd i x d => exact decodeBytes_of_decodeData_wordOf (decodeData_rom_word (D := 0b000#3) rfl i x d)
  | romWr i x d => exact decodeBytes_of_decodeData_wordOf (decodeData_rom_word (D := 0b100#3) rfl i x d)
  | rtcRd x b d => exact decodeBytes_of_decodeData_wordOf (decodeData_rtc_word (p := 0x200000#24) rfl x b d)
  | rtcWr x b d => exact decodeBytes_of_decodeData_wordOf (decodeData_rtc_word (p := 0xA00000#24) rfl x b d)
  | sramRd x b d => exact decodeBytes_of_decodeData_wordOf (decodeData_sram_word (p := 0x200001#24) rfl x b d)
  | sramWr x b d => exact decodeBytes_of_decodeData_wordOf (decodeData_sram_word (p := 0xA00001#24) rfl x b d)
  | uartRd x d => exact decodeBytes_of_decodeData_wordOf (decodeData_uart_word (p := 0x200100#24) rfl x d)
  | uartWr x d => exact decodeBytes_of_decodeData_wordOf (decodeData_uart_word (p := 0xA00100#24) rfl x d)
  | illRd w d => exact decodeBytes_of_decodeData_wordOf (decodeData_illegal_word h 0#1 d)
  | illWr w d => exact decodeBytes_of_decodeData_wordOf (decodeData_illegal_word h 1#1 d)

/-! ### From the word to the operation and back -/

/-- Bit 31 is the direction, and stands over the field that ends at bit 30 (R73). -/
theorem direction_append_field {n m : Nat} (h : 31 = n + m) (a : Word) :
    BitVec.ofBool (isWrite a) ++ a.extractLsb' n m = a.extractLsb' n (1 + m) := by
  have hdir : BitVec.ofBool (isWrite a) = a.extractLsb' 31 1 := by
    apply BitVec.eq_of_getLsbD_eq
    intro k hk
    obtain rfl : k = 0 := by omega
    simp [isWrite]
  rw [hdir, BitVec.extractLsb'_append_extractLsb'_eq_extractLsb' h]

/-- A word of direction, top field, middle field and low field is put together again from them. -/
theorem direction_append_fields {n l m : Nat} (h : 31 = n + l + m) (a : Word) :
    BitVec.ofBool (isWrite a) ++ a.extractLsb' (n + l) m ++ a.extractLsb' n l ++ a.extractLsb' 0 n =
      a.extractLsb' 0 (1 + m + l + n) := by
  rw [direction_append_field h, BitVec.extractLsb'_append_extractLsb'_eq_extractLsb' rfl,
    BitVec.extractLsb'_append_extractLsb'_eq_extractLsb' (Nat.zero_add n).symm]

/-- The direction bit over bits 30:0 is the word (R78). -/
theorem direction_append_address (a : Word) : (BitVec.ofBool (isWrite a) ++ a.extractLsb' 0 31 : Word) = a :=
  (direction_append_field rfl a).trans BitVec.extractLsb'_eq_self

theorem wordOf_decodeData_of_rom (h : regionOf a = .rom) : wordOf (decodeData a d) = a := by
  rw [decodeData_of_rom h]
  calc wordOf _
      = BitVec.ofBool (isWrite a) ++ 0#2 ++ a.extractLsb' 6 23 ++ a.extractLsb' 0 6 := by cases isWrite a <;> rfl
    _ = a := by
      rw [← regionOf_eq_rom_iff.1 h]
      exact (direction_append_fields (n := 6) (l := 23) rfl a).trans BitVec.extractLsb'_eq_self

theorem wordOf_decodeData_of_rtc (h : regionOf a = .rtc) : wordOf (decodeData a d) = a := by
  rw [decodeData_of_rtc h]
  calc wordOf _
      = BitVec.ofBool (isWrite a) ++ 0x200000#23 ++ a.extractLsb' 2 6 ++ a.extractLsb' 0 2 := by
        cases isWrite a <;> rfl
    _ = a := by
      rw [← regionOf_eq_rtc_iff.1 h]
      exact (direction_append_fields (n := 2) (l := 6) rfl a).trans BitVec.extractLsb'_eq_self

theorem wordOf_decodeData_of_sram (h : regionOf a = .sram) : wordOf (decodeData a d) = a := by
  rw [decodeData_of_sram h]
  calc wordOf _
      = BitVec.ofBool (isWrite a) ++ 0x200001#23 ++ a.extractLsb' 6 2 ++ a.extractLsb' 0 6 := by
        cases isWrite a <;> rfl
    _ = a := by
      rw [← regionOf_eq_sram_iff.1 h]
      exact (direction_append_fields (n := 6) (l := 2) rfl a).trans BitVec.extractLsb'_eq_self

theorem wordOf_decodeData_of_uart (h : regionOf a = .uart) : wordOf (decodeData a d) = a := by
  rw [decodeData_of_uart h]
  calc wordOf _
      = BitVec.ofBool (isWrite a) ++ 0x200100#23 ++ a.extractLsb' 0 8 := by cases isWrite a <;> rfl
    _ = a := by
      rw [← regionOf_eq_uart_iff.1 h, direction_append_field rfl]
      exact (BitVec.extractLsb'_append_extractLsb'_eq_extractLsb' rfl).trans BitVec.extractLsb'_eq_self

theorem wordOf_decodeData_of_illegal (h : regionOf a = .illegal) : wordOf (decodeData a d) = a := by
  rw [decodeData_of_illegal h]
  calc wordOf _
      = BitVec.ofBool (isWrite a) ++ a.extractLsb' 0 31 := by cases isWrite a <;> rfl
    _ = a := direction_append_address a

/-- No bit of the word is dropped (R81). -/
theorem wordOf_decodeData (a : Word) (d : Byte) : wordOf (decodeData a d) = a := by
  cases h : regionOf a with
  | rom => exact wordOf_decodeData_of_rom h
  | rtc => exact wordOf_decodeData_of_rtc h
  | sram => exact wordOf_decodeData_of_sram h
  | uart => exact wordOf_decodeData_of_uart h
  | illegal => exact wordOf_decodeData_of_illegal h

theorem isIllegalAddress_of_illegal (h : regionOf a = .illegal) : isIllegalAddress (a.extractLsb' 0 31) = true :=
  (isIllegalAddress_iff (BitVec.ofBool (isWrite a)) _).2 (by rw [direction_append_address, h])

/-- Only the Illegal rows have a check to meet, and they take what the other rows leave (R78). -/
theorem wellFormed_decodeData (a : Word) (d : Byte) : wellFormed (decodeData a d) = true := by
  cases h : regionOf a with
  | rom => rw [decodeData_of_rom h]; split <;> rfl
  | rtc => rw [decodeData_of_rtc h]; split <;> rfl
  | sram => rw [decodeData_of_sram h]; split <;> rfl
  | uart => rw [decodeData_of_uart h]; split <;> rfl
  | illegal => rw [decodeData_of_illegal h]; split <;> exact isIllegalAddress_of_illegal h

theorem encode_decodeData (a : Word) (d : Byte) : encode (decodeData a d) = wordBytes a d := by
  have hbytes : encode (decodeData a d) = wordBytes (wordOf (decodeData a d)) d := by
    unfold decodeData
    split <;> rfl
  rw [hbytes, wordOf_decodeData]

/-! ### The base an operation takes from its fields (R79) -/

/-- The region a data-phase operation reaches and the base its own fields give; UART and Illegal use none. -/
def operandBase (c : Config) : Instr → Option (Region × Nat)
  | .romRd i _ _ | .romWr i _ _ => some (.rom, romBase c i)
  | .rtcRd _ b _ | .rtcWr _ b _ => some (.rtc, rtcBase b)
  | .sramRd _ b _ | .sramWr _ b _ => some (.sram, sramBase b)
  | .uartRd _ _ | .uartWr _ _ => some (.uart, 0)
  | .illRd _ _ | .illWr _ _ => some (.illegal, 0)
  | .csReset | .csActive | .xferAddr _ | .xferLatch _ | .construct | .teardown => none

/-- The two readings of R79 agree for every word. -/
theorem operandBase_decodeData {c : Config} (hc : configValid c = true) (a : Word) (d : Byte) :
    operandBase c (decodeData a d) = some (decodeAddress (romMask c) a) := by
  cases h : regionOf a with
  | rom => rw [decodeData_of_rom h, decodeAddress_of_rom h, romBase_field hc]; split <;> rfl
  | rtc => rw [decodeData_of_rtc h, decodeAddress_of_rtc h, rtcBase_field]; split <;> rfl
  | sram => rw [decodeData_of_sram h, decodeAddress_of_sram h, sramBase_field]; split <;> rfl
  | uart => rw [decodeData_of_uart h, decodeAddress, h]; split <;> rfl
  | illegal => rw [decodeData_of_illegal h, decodeAddress, h]; split <;> rfl

theorem decodeAddress_of_operandBase {c : Config} (hc : configValid c = true) {p : Region × Nat}
    (h : operandBase c (decodeData a d) = some p) : decodeAddress (romMask c) a = p :=
  Option.some.inj ((operandBase_decodeData hc a d).symm.trans h)

/-! ### What an operation sees of its fields -/

/-- Two operations with the same update of a state have the same outcome in it, whatever its life. -/
theorem exec_congr {i j : Instr} (hi : i ≠ .construct) (hj : j ≠ .construct) {s : State}
    (h : effect i s = effect j s) : exec i s = exec j s := by
  rw [exec_eq_whenLive hi, exec_eq_whenLive hj, State.whenLive, State.whenLive, h]

/-- A ROM operation sees its fields through the base only. -/
theorem exec_rom_congr {s : State} {i j : BitVec 23} (h : romBase s.cfg i = romBase s.cfg j) (x y : BitVec 6)
    (d : Byte) : exec (.romRd i x d) s = exec (.romRd j y d) s ∧ exec (.romWr i x d) s = exec (.romWr j y d) s :=
  ⟨exec_congr (by simp) (by simp) (by simp only [effect, h]),
    exec_congr (by simp) (by simp) (by simp only [effect, h])⟩

end Sys2Proof.Machine
end

section
/-! The statements of 30_encoding.md. -/

namespace Sys2Proof.Proofs

open Sys2Proof.Machine

/-- Settles O12: a data-phase operation's composed word selects it again; every other operation is its port's
request. -/
theorem decodeReadsBackEveryEncoding : Obligations.DecodeReadsBackEveryEncoding := by
  refine ⟨fun _ => decodeBytes_encode, fun p d hp => ?_⟩
  simp [encode, decodeBytes, decodeXfer, hp, show p < 4 by omega]

/-- Settles O11: for every word the operation's own base is the decoded one. -/
theorem operandBasesAreTheDecodedBases : Obligations.OperandBasesAreTheDecodedBases := by
  intro c a d hc
  refine ⟨fun i x h => ?_, fun x b h => ?_, fun x b h => ?_⟩ <;>
    exact decodeAddress_of_operandBase (d := d) hc (by obtain h | h := h <;> rw [h] <;> rfl)

/-- Settles O13: the selected operation's fields and the row's fixed bits are the whole word. -/
theorem everyWordIsOneWellFormedOperation : Obligations.EveryWordIsOneWellFormedOperation :=
  fun a d => ⟨wellFormed_decodeData a d, wordOf_decodeData a d, encode_decodeData a d⟩

/-- Settles O10: below position 4 the position selects, from 4 on the latched word's region and direction. -/
theorem opcodeMapSelectsTheOperation : Obligations.OpcodeMapSelectsTheOperation := by
  intro pos a d
  have hdata : 4 ≤ pos → decodeOp pos a (.xfer d) = decodeData a d := fun h => decodeXfer_data h a d
  refine ⟨fun h => by simp [decodeOp, decodeXfer, show pos < 3 by omega],
    fun h => by simp [decodeOp, decodeXfer, h], ?_, ?_, ?_, ?_, ?_, ?_, ?_, ?_, ?_, ?_, rfl, rfl, rfl, rfl⟩ <;>
    intro hp hr hw <;> rw [hdata hp]
  · exact ⟨_, _, by rw [decodeData_of_rom hr, hw]; rfl⟩
  · exact ⟨_, _, by rw [decodeData_of_rom hr, hw]; rfl⟩
  · exact ⟨_, _, by rw [decodeData_of_rtc hr, hw]; rfl⟩
  · exact ⟨_, _, by rw [decodeData_of_rtc hr, hw]; rfl⟩
  · exact ⟨_, _, by rw [decodeData_of_sram hr, hw]; rfl⟩
  · exact ⟨_, _, by rw [decodeData_of_sram hr, hw]; rfl⟩
  · exact ⟨_, by rw [decodeData_of_uart hr, hw]; rfl⟩
  · exact ⟨_, by rw [decodeData_of_uart hr, hw]; rfl⟩
  · exact ⟨_, by rw [decodeData_of_illegal hr, hw]; rfl⟩
  · exact ⟨_, by rw [decodeData_of_illegal hr, hw]; rfl⟩

/-- Settles O14, by evaluating the decoder on each sample word. -/
theorem sampleTableWordsDecode : Obligations.SampleTableWordsDecode := by
  unfold Obligations.SampleTableWordsDecode
  decide

/-- Settles O32: a ROM operation sees its fields through the base, and the others do not look at the ignored bits. -/
theorem ignoredAddressBitsDoNotMatter : Obligations.IgnoredAddressBitsDoNotMatter :=
  fun _ d => ⟨fun _ _ x y h => exec_rom_congr h x y d, fun _ _ _ => ⟨rfl, rfl⟩, fun _ _ _ => ⟨rfl, rfl⟩,
    fun _ _ => ⟨rfl, rfl⟩⟩

end Sys2Proof.Proofs
end

section
/-! Lemmas for the statements of 40_transaction_controller.md: an operation on a live and on a dead device, what a whole
address phase leaves, and what the data-phase bytes add up to. -/

namespace Sys2Proof.Machine

variable {s t : State}

/-! ### The lifetime of an operation -/

theorem exec_of_live {i : Instr} (hi : i ≠ .construct) (hl : s.life = .constructed) :
    exec i s = .next (effect i s) :=
  (exec_next_iff hi).2 ⟨hl, rfl⟩

theorem exec_of_not_live {i : Instr} (hi : i ≠ .construct) (hl : s.life ≠ .constructed) :
    exec i s = .refused .notConstructed :=
  (exec_eq_whenLive hi s).trans (whenLive_dead hl _)

/-! ### The address phase -/

/-- The device at the start of the data phase under the word `a`: latched, with no data byte counted yet. -/
def State.latchedAt (s : State) (a : Word) : State :=
  ((((s.setAddr a).setDOut idleByte).setOff 0).latch).setPos 4

/-- CS(1) and four address bytes latch their big-endian word, whatever stood before (R107, R108). -/
theorem run_addressPhase {b0 b1 b2 b3 : Byte} {rest : List BusOp} (hl : s.life = .constructed)
    (h : s.inbox = cs1 ++ (wr [b0, b1, b2, b3] ++ rest)) :
    run 5 s = .next ((s.setInbox rest).latchedAt (be32 b0 b1 b2 b3)) := by
  rw [← shiftIn_four s.addr b0 b1 b2 b3]
  refine Eq.trans (run_succ_next (step_chipSelect hl h) 4) ?_
  refine Eq.trans (run_succ_next (step_addressByte (by exact hl) (by decide : 0 < 3) rfl) 3) ?_
  refine Eq.trans (run_succ_next (step_addressByte (by exact hl) (by decide : 1 < 3) rfl) 2) ?_
  refine Eq.trans (run_succ_next (step_addressByte (by exact hl) (by decide : 2 < 3) rfl) 1) ?_
  exact run_succ_next (step_latch (by exact hl) rfl rfl) 0

/-! ### The data phase -/

/-- A data-phase byte moves the position by one and leaves the ROM and the parameters (R106, 44_rom.md R193). -/
theorem DataUpdate.pos_cfg_rom {r : Region} {w : Bool} (h : DataUpdate r w s t) :
    t.pos = s.pos + 1 ∧ t.cfg = s.cfg ∧ t.rom = s.rom := by
  cases h with
  | passive _ _ _ _ eq | rtcWrite _ _ _ _ eq | sramWrite _ _ _ _ eq | uartWrite _ _ _ _ _ eq =>
    subst eq
    exact ⟨rfl, rfl, rfl⟩

/-- What `n` data-phase bytes do from `s` to `t`, and what they leave alone. -/
structure CountsBytes (n : Nat) (s t : State) : Prop where
  off : t.off = s.off + BitVec.ofNat 32 n
  pos : t.pos = s.pos + n
  addr : t.addr = s.addr
  life : t.life = s.life
  cfg : t.cfg = s.cfg
  rom : t.rom = s.rom
  env : t.env = s.env

theorem CountsBytes.zero (s : State) : CountsBytes 0 s s := ⟨by simp, rfl, rfl, rfl, rfl, rfl, rfl⟩

theorem CountsBytes.trans {m n : Nat} {u : State} (h : CountsBytes m s t) (h' : CountsBytes n t u) :
    CountsBytes (m + n) s u where
  off := by rw [h'.off, h.off, BitVec.ofNat_add, BitVec.add_assoc]
  pos := by rw [h'.pos, h.pos, Nat.add_assoc]
  addr := h'.addr.trans h.addr
  life := h'.life.trans h.life
  cfg := h'.cfg.trans h.cfg
  rom := h'.rom.trans h.rom
  env := h'.env.trans h.env

/-- A data-phase byte is a step that takes its own request and counts one byte. -/
theorem step_dataByte_counts {d : Byte} {rest : List BusOp} (hl : s.life = .constructed) (hp : 4 ≤ s.pos)
    (h : s.inbox = .xfer d :: rest) : ∃ t, step s = .next t ∧ t.inbox = rest ∧ CountsBytes 1 s t := by
  have hu := effect_decodeData_update s.addr d (s.setInbox rest)
  obtain ⟨addr, off, life, -, env, inbox⟩ := hu.frame
  obtain ⟨pos, cfg, rom⟩ := hu.pos_cfg_rom
  exact ⟨_, step_dataByte hl hp h, inbox, off, pos, addr, life, cfg, rom, env⟩

/-- Once in the data phase every byte is a data byte, because the position only grows (R106). -/
theorem run_dataBytes (bytes : List Byte) {rest : List BusOp} (hl : s.life = .constructed)
    (hp : 4 ≤ s.pos) (h : s.inbox = wr bytes ++ rest) :
    ∃ t, run bytes.length s = .next t ∧ t.inbox = rest ∧ CountsBytes bytes.length s t := by
  induction bytes generalizing s with
  | nil => exact ⟨s, rfl, h, .zero s⟩
  | cons d ds ih =>
    obtain ⟨u, hstep, hinbox, hu⟩ := step_dataByte_counts hl hp h
    have hpu : 4 ≤ u.pos := by rw [hu.pos]; omega
    obtain ⟨t, hrun, hrest, ht⟩ := ih (hu.life.trans hl) hpu hinbox
    refine ⟨t, (run_succ_next hstep ds.length).trans hrun, hrest, ?_⟩
    rw [List.length_cons, Nat.add_comm]
    exact hu.trans ht

end Sys2Proof.Machine
end

section
/-! The statements of 40_transaction_controller.md. -/

namespace Sys2Proof.Proofs

open Sys2Proof.Machine

/-- Settles O18: below position 3 the step is an address byte, and at position 3 an address byte and the latch. -/
theorem addressPhaseTransferShiftsIn : Obligations.AddressPhaseTransferShiftsIn := by
  intro s d rest hl hp h
  obtain hlt | heq : s.pos < 3 ∨ s.pos = 3 := by omega
  · exact ⟨_, step_addressByte hl hlt h, rfl, rfl, rfl, rfl, rfl, rfl, rfl, rfl, rfl, rfl, rfl, rfl, rfl, rfl,
      fun _ => ⟨rfl, rfl, rfl⟩, fun heq => absurd heq hlt.ne⟩
  · exact ⟨_, step_latch hl heq h, rfl, rfl, rfl, rfl, rfl, rfl, rfl, rfl, rfl, rfl, rfl, rfl, rfl, rfl,
      fun hlt => absurd heq hlt.ne, fun _ => ⟨rfl, rfl⟩⟩

/-- Settles O49: the address phase ends with the four bytes' big-endian word latched. -/
theorem fourBytesBuildTheAddress : Obligations.FourBytesBuildTheAddress := by
  intro s b0 b1 b2 b3 rest hl h
  exact ⟨_, run_addressPhase hl h, be32_toNat b0 b1 b2 b3, rfl, rfl, rfl, rfl, hl, rfl, rfl, rfl, rfl, rfl, rfl, rfl⟩

/-- Settles O50, by induction over the bytes: each is one data-phase step and leaves the device in the data phase. -/
theorem offsetCountsTheDataBytes : Obligations.OffsetCountsTheDataBytes := by
  intro bytes s rest hl hp h
  obtain ⟨t, hrun, hinbox, ht⟩ := run_dataBytes bytes hl hp h
  exact ⟨t, hrun, ht.off, ht.pos, ht.addr, hinbox, ht.life.trans hl, ht.cfg, ht.rom, ht.env⟩

/-- Settles O16: CS(1) is a guarded reset of the position. -/
theorem chipSelectHighResetsPosition : Obligations.ChipSelectHighResetsPosition :=
  fun _ => ⟨exec_of_live nofun, exec_of_not_live nofun⟩

/-- Settles O17: CS(0) is the guard alone. -/
theorem chipSelectLowChangesNothing : Obligations.ChipSelectLowChangesNothing :=
  fun _ => ⟨exec_of_live nofun, exec_of_not_live nofun⟩

/-- Settles O19: the address byte's composed update is the one record update. -/
theorem addressByteShiftsIn : Obligations.AddressByteShiftsIn :=
  fun _ _ hl => exec_of_live nofun hl

/-- Settles O20: the latch classifies the complete address by the region that the decoder gives it. -/
theorem latchRefreshesAndClassifies : Obligations.LatchRefreshesAndClassifies := by
  intro s d hl a
  rw [decodeAddress_region]
  exact exec_of_live nofun hl

end Sys2Proof.Proofs
end

section
/-! Lemmas for the statements of 41_decoder_dispatch.md: what the decoder sees of bit 31, the one access that a
data-phase byte to an indexed region makes, and the byte that a write returns. -/

namespace Sys2Proof.Machine

variable {s : State} {a : Word} {d : Byte} {r : Region} {base : Nat}

/-! ### Bit 31 (R131) -/

/-- A mask without bit 31 does not see it. -/
theorem flipDir_and {m : Word} (h : 0x80000000#32 &&& m = 0#32) (a : Word) :
    (a ^^^ 0x80000000#32) &&& m = a &&& m := by
  apply BitVec.eq_of_getLsbD_eq
  intro i _
  have hi := congrArg (BitVec.getLsbD · i) h
  simp only [BitVec.getLsbD_and, BitVec.getLsbD_xor, BitVec.getLsbD_zero] at hi ⊢
  rw [Bool.and_xor_distrib_right, hi, Bool.xor_false]

theorem regionOf_flipDir (a : Word) : regionOf (a ^^^ 0x80000000#32) = regionOf a := by
  simp only [regionOf, flipDir_and (m := 0x60000000#32) rfl, flipDir_and (m := 0x7FFFFF00#32) rfl]

/-- The ROM's index field ends below bit 31 (R74). -/
theorem romField_flipDir (a : Word) : (a ^^^ 0x80000000#32).extractLsb' 6 23 = a.extractLsb' 6 23 := by
  rw [BitVec.extractLsb'_xor, show (0x80000000#32).extractLsb' 6 23 = 0#23 by decide, BitVec.xor_zero]

/-- The shifted word of R130 holds bit 31 at bit 25, which no valid ROM_MASK reaches. -/
theorem decodeAddress_flipDir {c : Config} (hc : configValid c = true) (a : Word) :
    decodeAddress (romMask c) (a ^^^ 0x80000000#32) = decodeAddress (romMask c) a := by
  simp only [decodeAddress, regionOf_flipDir, romBase_field hc, romField_flipDir,
    flipDir_and (m := 0x03#32) rfl, flipDir_and (m := 0x3F#32) rfl]

theorem isWrite_flipDir (a : Word) : isWrite (a ^^^ 0x80000000#32) = !isWrite a := by
  simp [isWrite]

/-! ### The access to an indexed region (R132, R134, R135) -/

/-- `MemWrite(R, k, 1, d)`: the RTC and the SRAM store the byte, and no other region takes one. -/
def State.writeByte (s : State) (r : Region) (k : Nat) (d : Byte) : State :=
  match r with
  | .rtc => s.setRtc (s.rtc.write k d)
  | .sram => s.setSram (s.sram.write k d)
  | .rom | .uart | .illegal => s

/-- The access of a byte `d` at index `k` in direction `w` (true for write). -/
def State.accessByte (s : State) (r : Region) (w : Bool) (k : Nat) (d : Byte) : State :=
  if w then (s.writeByte r k d).setDOut d else s.setDOut (s.readByte r k)

/-- One byte is written, and every other byte of every region reads as before. -/
theorem readByte_writeByte (hr : r = .rtc ∨ r = .sram) (k : Nat) (d : Byte) (q : Region) (j : Nat) :
    (s.writeByte r k d).readByte q j = if q = r ∧ j = k then d else s.readByte q j := by
  obtain rfl | rfl := hr
  · cases q with
    | rtc => simpa [State.writeByte, State.readByte] using read_write s.rtc k j d
    | rom | sram | uart | illegal => simp [State.writeByte, State.readByte]
  · cases q with
    | sram => simpa [State.writeByte, State.readByte] using read_write s.sram k j d
    | rom | rtc | uart | illegal => simp [State.writeByte, State.readByte]

theorem accessByte_ovf_warn (s : State) (r : Region) (w : Bool) (k : Nat) (d : Byte) :
    (s.accessByte r w k d).ovf = s.ovf ∧ (s.accessByte r w k d).warn = s.warn := by
  cases w with
  | false => exact ⟨rfl, rfl⟩
  | true => cases r <;> exact ⟨rfl, rfl⟩

/-- UART and Illegal have no size, so no index lies inside one. -/
theorem indexed_of_lt_regionSize {c : Config} {k : Nat} (h : k < regionSize c r) : r = .rom ∨ r = .rtc ∨ r = .sram := by
  cases r with
  | rom | rtc | sram => simp
  | uart | illegal => exact absurd h (Nat.not_lt_zero k)

/-- A data-phase byte to an indexed region is one bound-checked access at the decoded base. -/
theorem effect_decodeData_indexed (hc : configValid s.cfg = true) (ha : decodeAddress (romMask s.cfg) a = (r, base))
    (hr : r = .rom ∨ r = .rtc ∨ r = .sram) (d : Byte) :
    effect (decodeData a d) s =
      (s.bounded (regionSize s.cfg r) base d fun k t => t.accessByte r (isWrite a) k d).endData := by
  have hreg : regionOf a = r := by rw [← decodeAddress_region (romMask s.cfg) a, ha]
  obtain rfl | rfl | rfl := hr
  · rw [decodeAddress_of_rom hreg, romBase_field hc] at ha
    cases ha
    rw [decodeData_of_rom hreg]
    cases isWrite a <;> rfl
  · rw [decodeAddress_of_rtc hreg, rtcBase_field] at ha
    cases ha
    rw [decodeData_of_rtc hreg]
    cases isWrite a <;> rfl
  · rw [decodeAddress_of_sram hreg, sramBase_field] at ha
    cases ha
    rw [decodeData_of_sram hreg]
    cases isWrite a <;> rfl

theorem effect_decodeData_inside (hc : configValid s.cfg = true) (ha : decodeAddress (romMask s.cfg) a = (r, base))
    (hin : base + s.off.toNat < regionSize s.cfg r) (d : Byte) :
    effect (decodeData a d) s = (s.accessByte r (isWrite a) (base + s.off.toNat) d).endData := by
  rw [effect_decodeData_indexed hc ha (indexed_of_lt_regionSize hin), bounded_inside hin]
  rfl

theorem effect_decodeData_outside (hc : configValid s.cfg = true) (ha : decodeAddress (romMask s.cfg) a = (r, base))
    (hr : r = .rom ∨ r = .rtc ∨ r = .sram) (hout : regionSize s.cfg r ≤ base + s.off.toNat) (d : Byte) :
    effect (decodeData a d) s = (s.raiseOverrun d).endData := by
  rw [effect_decodeData_indexed hc ha hr, bounded_outside hout]

theorem uartPut_ovf_warn (s : State) (d : Byte) : (s.uartPut d).ovf = s.ovf ∧ (s.uartPut d).warn = s.warn := by
  rw [uartPut_frame]
  exact ⟨rfl, rfl⟩

/-- UART and Illegal have no bound check (R134), so no fault and no warning. -/
theorem effect_decodeData_unindexed (hr : regionOf a = .uart ∨ regionOf a = .illegal) (d : Byte) (s : State) :
    (effect (decodeData a d) s).ovf = s.ovf ∧ (effect (decodeData a d) s).warn = s.warn := by
  obtain hr | hr := hr
  · rw [decodeData_of_uart hr]
    cases isWrite a with
    | false => exact ⟨rfl, rfl⟩
    | true => exact uartPut_ovf_warn s d
  · rw [decodeData_of_illegal hr]
    cases isWrite a <;> exact ⟨rfl, rfl⟩

/-- A data-phase step inside the region is the access of its byte at `base + off`. -/
theorem step_dataByte_inside {rest : List BusOp} (hl : s.life = .constructed) (hc : configValid s.cfg = true)
    (hp : 4 ≤ s.pos) (h : s.inbox = .xfer d :: rest) (ha : decodeAddress (romMask s.cfg) s.addr = (r, base))
    (hin : base + s.off.toNat < regionSize s.cfg r) :
    step s = .next ((s.setInbox rest).accessByte r s.dir (base + s.off.toNat) d).endData :=
  (step_dataByte hl hp h).trans (congrArg _ (effect_decodeData_inside (s := s.setInbox rest) hc ha hin d))

/-! ### The byte a write returns (R133) -/

/-- A bound-checked access that returns `d` returns it whenever no fault stands after it. -/
theorem bounded_dOut_of_noFault {size : Nat} {f : Nat → State → State} (hf : ∀ k, (f k s).dOut = some d)
    (h : (s.bounded size base d f).endData.noFault) : (s.bounded size base d f).endData.dOut = some d := by
  obtain ⟨-, hb⟩ | ⟨-, hb⟩ := bounded_cases s size base d f <;> rw [hb] at h ⊢
  · exact hf _
  · cases h

theorem effect_write_dOut (hw : isWrite a = true) (h : (effect (decodeData a d) s).noFault) :
    (effect (decodeData a d) s).dOut = some d := by
  cases hr : regionOf a with
  | rom => rw [decodeData_of_rom hr, hw] at h ⊢; exact bounded_dOut_of_noFault (fun _ => rfl) h
  | rtc => rw [decodeData_of_rtc hr, hw] at h ⊢; exact bounded_dOut_of_noFault (fun _ => rfl) h
  | sram => rw [decodeData_of_sram hr, hw] at h ⊢; exact bounded_dOut_of_noFault (fun _ => rfl) h
  | uart => rw [decodeData_of_uart hr, hw]; rfl
  | illegal => rw [decodeData_of_illegal hr, hw]; rfl

end Sys2Proof.Machine
end

section
/-! The statements of 41_decoder_dispatch.md. -/

namespace Sys2Proof.Proofs

open Sys2Proof.Machine

/-- Settles O9: no mask of the decode table and no valid ROM_MASK sees bit 31. -/
theorem directionBitDoesNotMoveTheRegion : Obligations.DirectionBitDoesNotMoveTheRegion :=
  fun _ a hc => ⟨decodeAddress_flipDir hc a, isWrite_flipDir a⟩

/-- Settles O33: inside the region the step is the access, in read direction. -/
theorem dataByteReadsTheAddressedByte : Obligations.DataByteReadsTheAddressedByte := by
  intro s r base d rest hl hc hp h hdir ha hin
  rw [step_dataByte_inside hl hc hp h ha hin, hdir]
  rfl

/-- Settles O34: inside the region the step is the access, in write direction. -/
theorem dataByteWritesTheAddressedByte : Obligations.DataByteWritesTheAddressedByte := by
  intro s r base d rest hl hc hp h hdir ha hr hin
  have hstep := step_dataByte_inside hl hc hp h ha hin
  have hread := readByte_writeByte (s := s.setInbox rest) hr (base + s.off.toNat) d
  rw [hdir] at hstep
  refine ⟨_, hstep, ?_⟩
  obtain rfl | rfl := hr <;>
    exact ⟨rfl, rfl, rfl, rfl, rfl, rfl, rfl, rfl, rfl, rfl, hread⟩

/-- Settles O35: outside the region the update is the fault action, inside it the access, and UART and Illegal have no
bound check. -/
theorem boundCheckDecidesTheOverrun : Obligations.BoundCheckDecidesTheOverrun := by
  intro s r base d hl hc ha
  have hexec := exec_of_live (decodeData_ne_construct s.addr d) hl
  refine ⟨fun hr hout => ?_, fun _ hin => ?_, fun hr => ?_⟩
  · exact overruns_of_exec_eq (hexec.trans (congrArg _ (effect_decodeData_outside hc ha hr hout d)))
  · rw [effect_decodeData_inside hc ha hin] at hexec
    exact ⟨_, hexec, accessByte_ovf_warn s r _ _ d⟩
  · have hreg : regionOf s.addr = r := by rw [← decodeAddress_region (romMask s.cfg), ha]
    exact ⟨_, hexec, effect_decodeData_unindexed (hreg ▸ hr) d s⟩

/-- Settles O36: the step ran on a live device, and a write that leaves no fault did not overrun. -/
theorem writesEchoTheByte : Obligations.WritesEchoTheByte := by
  intro s t d rest hp h hdir hstep hfault
  rw [step_issued h, decodeOp, decodeXfer_data hp] at hstep
  obtain ⟨-, rfl⟩ := (exec_next_iff (decodeData_ne_construct _ _)).1 hstep
  exact effect_write_dOut hdir hfault

/-- Settles O30: both directions are the one guarded pass-through, whose event is that of `emit diag`. -/
theorem illegalPassesTheByteThrough : Obligations.IllegalPassesTheByteThrough :=
  fun _ _ _ hl => ⟨exec_of_live nofun hl, exec_of_live nofun hl⟩

end Sys2Proof.Proofs
end

section
/-! Lemmas for the statements of 42_sram.md: the bound-checked access in its two outcomes, a transaction of one data
byte, the SRAM's own transactions, and the file after a teardown that saves. -/

namespace Sys2Proof.Machine

variable {s : State} {b k : BitVec 6} {x : BitVec 2} {d v : Byte}

/-! ### The load (R151) -/

/-- The load warns exactly when it falls back to the template. -/
theorem sramBuild_warns (c : Config) (r : LoadAnswer) :
    (sramBuild c r).2 = if sramFallsBack r then [.configLoadFallback] else [] := by
  cases r with
  | fail => rfl
  | ok bytes =>
    obtain hshort | hlong := Nat.lt_or_ge bytes.length 64
    · simp [sramBuild, sramLoad_short hshort, sramFallsBack, hshort]
    · simp [sramBuild, sramLoad_ok hlong, sramFallsBack, Nat.not_lt.2 hlong]

/-! ### The bound-checked access (R155, R156) -/

/-- An operation that is one bound-checked access overruns at every index past its region. -/
theorem overruns_of_effect_bounded {i : Instr} {size base : Nat} {f : Nat → State → State} (hi : i ≠ .construct)
    (hl : s.life = .constructed) (he : effect i s = (s.bounded size base d f).endData)
    (hout : size ≤ base + s.off.toNat) : Overruns i s :=
  overruns_of_exec_eq (by rw [exec_of_live hi hl, he, bounded_outside hout])

theorem effect_sramRd_inside (h : b.toNat + s.off.toNat < 64) :
    effect (.sramRd x b d) s = (s.setDOut (s.sram.read (b.toNat + s.off.toNat))).endData :=
  congrArg State.endData (bounded_inside h d _)

theorem effect_sramWr_inside (h : b.toNat + s.off.toNat < 64) :
    effect (.sramWr x b d) s = ((s.setSram (s.sram.write (b.toNat + s.off.toNat) d)).setDOut d).endData :=
  congrArg State.endData (bounded_inside h d _)

/-! ### A transaction of one data byte -/

/-- The address phase latches the word, and the data byte is the operation that the word selects. -/
theorem run_oneByteTransaction {a : Word} {rest : List BusOp} (hl : s.life = .constructed)
    (h : s.inbox = txn a (wr [d]) ++ rest) :
    run 6 s = .next (effect (decodeData a d) ((s.setInbox rest).latchedAt a)) := by
  have haddr := run_addressPhase (rest := .xfer d :: rest) hl h
  rw [be32_bytes] at haddr
  have hdata := step_dataByte (s := (s.setInbox (.xfer d :: rest)).latchedAt a) hl (Nat.le_refl 4) rfl
  exact (run_add_next haddr 1).trans (run_succ_next hdata 0)

/-- An SRAM word of R76 with its ignored bits clear, as a bus master composes it. -/
theorem pattern_or_offset (p : BitVec 24) (k : BitVec 6) :
    (p ++ 0#8 : Word) ||| k.setWidth 32 = p ++ 0#2 ++ k := by
  apply BitVec.eq_of_getLsbD_eq
  intro i hi
  simp only [BitVec.getLsbD_or, BitVec.getLsbD_append, BitVec.getLsbD_setWidth, BitVec.getLsbD_zero]
  by_cases h6 : i < 6
  · simp [h6, hi, show i < 8 by omega]
  · have hk : k.getLsbD i = false := BitVec.getLsbD_of_ge k i (Nat.not_lt.1 h6)
    by_cases h8 : i < 8
    · simp [h6, h8, hk, show i - 6 < 2 by omega]
    · simp [h6, h8, hk, show ¬ i - 6 < 2 by omega, show i - 6 - 2 = i - 8 by omega]

theorem decodeData_sramWrite_word (k : BitVec 6) (d : Byte) :
    decodeData (0xA0000100#32 ||| k.setWidth 32) d = .sramWr 0#2 k d :=
  (congrArg (decodeData · d) (pattern_or_offset 0xA00001#24 k)).trans (decodeData_sram_word rfl 0#2 k d)

theorem decodeData_sramRead_word (k : BitVec 6) (d : Byte) :
    decodeData (0x20000100#32 ||| k.setWidth 32) d = .sramRd 0#2 k d :=
  (congrArg (decodeData · d) (pattern_or_offset 0x200001#24 k)).trans (decodeData_sram_word rfl 0#2 k d)

/-- The first data byte after a latch reaches the base itself, because the latch leaves `off` at 0. -/
theorem index_latchedAt_lt (s : State) (a : Word) (k : BitVec 6) : k.toNat + (s.latchedAt a).off.toNat < 64 := k.isLt

theorem run_sramWrite {rest : List BusOp} (hl : s.life = .constructed)
    (h : s.inbox = txn (0xA0000100#32 ||| k.setWidth 32) (wr [v]) ++ rest) :
    run 6 s = .next (((((s.setInbox rest).latchedAt (0xA0000100#32 ||| k.setWidth 32)).setSram
      (s.sram.write k.toNat v)).setDOut v).endData) := by
  rw [run_oneByteTransaction hl h, decodeData_sramWrite_word, effect_sramWr_inside (index_latchedAt_lt _ _ k)]
  rfl

theorem run_sramRead {rest : List BusOp} (hl : s.life = .constructed)
    (h : s.inbox = txn (0x20000100#32 ||| k.setWidth 32) (rd 1) ++ rest) :
    run 6 s = .next ((((s.setInbox rest).latchedAt (0x20000100#32 ||| k.setWidth 32)).setDOut
      (s.sram.read k.toNat)).endData) := by
  rw [run_oneByteTransaction hl h, decodeData_sramRead_word, effect_sramRd_inside (index_latchedAt_lt _ _ k)]
  rfl

/-! ### The file (R153) -/

theorem effect_teardown_file_of_ok (h : s.env.takeSramSave.1 = .ok) :
    (effect .teardown s).file = some (s.sram.firstBytes 64) := by
  obtain ⟨-, he⟩ | ⟨hfail, -⟩ := sramSave_cases s
  · simp [effect, he]
  · rw [hfail] at h
    cases h

end Sys2Proof.Machine
end

section
/-! The statements of 42_sram.md. -/

namespace Sys2Proof.Proofs

open Sys2Proof.Machine

/-- Settles O51: the write's transaction, then the read's on the store it left, whose bytes a successful save puts into
the file. -/
theorem sramWriteReadsBackAndPersists : Obligations.SramWriteReadsBackAndPersists := by
  intro s k v rest hl h
  have hrun := (run_add_next (run_sramWrite hl h) 6).trans (run_sramRead (k := k) (rest := rest) hl rfl)
  have hread := read_write_same s.sram k.toNat v
  have hfile := (firstBytes_getElem (s.sram.write k.toNat v) k.isLt).trans (congrArg some hread)
  exact ⟨_, hrun, congrArg some hread, hread, fun _ hj => read_write_other s.sram v hj, rfl, rfl, hl,
    fun hok => ⟨_, _, exec_of_live nofun hl, effect_teardown_file_of_ok hok, hfile⟩⟩

/-- Settles O3: the load writes its whole source, and the build overwrites the one byte of the language. -/
theorem sramContentsByteByByte : Obligations.SramContentsByteByByte :=
  fun c r hc => ⟨fun _ hk => (sramLoad_read hc r hk).symm, sramBuild_read c r, sramBuild_warns c r⟩

/-- Settles O26: the operation is one bound-checked access, which returns the byte. -/
theorem sramReadReturnsTheByte : Obligations.SramReadReturnsTheByte := by
  intro s x b d hl idx
  have hexec := exec_of_live (i := .sramRd x b d) nofun hl
  refine ⟨fun hin => ?_, fun hout => ?_⟩
  · exact hexec.trans (congrArg _ (effect_sramRd_inside hin))
  · exact overruns_of_effect_bounded nofun hl rfl hout

/-- Settles O27: the operation is one bound-checked access, which writes the byte and returns it. -/
theorem sramWriteStoresTheByte : Obligations.SramWriteStoresTheByte := by
  intro s x b d hl idx
  have hexec := exec_of_live (i := .sramWr x b d) nofun hl
  refine ⟨fun hin => ?_, fun hout => ?_⟩
  · exact ⟨_, hexec.trans (congrArg _ (effect_sramWr_inside hin)),
      read_write_same s.sram idx d, fun _ hj => read_write_other s.sram d hj⟩
  · exact overruns_of_effect_bounded nofun hl rfl hout

end Sys2Proof.Proofs
end

section
/-! Lemmas for the statements of 43_rtc.md: what a refresh leaves in the RTC, its value as a number and as a function of
the host clock, the RTC's two bound-checked accesses, and a read in a transaction of its own. -/

namespace Sys2Proof.Machine

variable {s : State} {c : Config} {x : BitVec 6} {b k : BitVec 2} {d : Byte}

/-! ### The refresh (R171) -/

/-- The refresh writes the four bytes of the RTC and no other index. -/
theorem rtcBytes_read_of_four_le (v : Word) (m : Memory) {j : Nat} (hj : 4 ≤ j) : (rtcBytes v m).read j = m.read j := by
  rw [rtcBytes]
  iterate 4 rw [read_write_other _ _ (by omega)]

theorem be32_rtcBytes_read (v : Word) (m : Memory) :
    be32 ((rtcBytes v m).read 0) ((rtcBytes v m).read 1) ((rtcBytes v m).read 2) ((rtcBytes v m).read 3) = v := by
  obtain ⟨h0, h1, h2, h3⟩ := rtcBytes_read v m
  rw [h0, h1, h2, h3, be32_bytes]

/-- Index `k` holds byte `k` of the value, counted from the most significant. -/
theorem rtcBytes_read_index (v : Word) (m : Memory) (k : BitVec 2) :
    (rtcBytes v m).read k.toNat = v.extractLsb' (24 - 8 * k.toNat) 8 := by
  obtain ⟨h0, h1, h2, h3⟩ := rtcBytes_read v m
  have hk : k.toNat < 4 := k.isLt
  interval_cases k.toNat
  · exact h0
  · exact h1
  · exact h2
  · exact h3

theorem effect_xferLatch_rtc (d : Byte) (s : State) :
    (effect (.xferLatch d) s).rtc = rtcBytes (rtcValue s.cfg s.env.takeClock.1) s.rtc := rfl

/-! ### The value (R171 to R173) -/

theorem rtcValue_toNat (c : Config) (t : Int) :
    ((rtcValue c t).toNat : Int) = (t - 946684800 - ((rtcBias c).toNat : Int)) % 2 ^ 32 := by
  rw [rtcValue, BitVec.toNat_ofInt]
  exact Int.toNat_of_nonneg (Int.emod_nonneg _ (by decide))

/-- The value moves with the host clock, modulo 2^32 (R177). -/
theorem rtcValue_add (c : Config) (t n : Int) : rtcValue c (t + n) = rtcValue c t + BitVec.ofInt 32 n := by
  rw [rtcValue, rtcValue, ← BitVec.ofInt_add]
  congr 1
  omega

/-- A valid configuration's template has every byte that the bias reads (R261). -/
theorem sramTemplate_bias (hc : configValid c = true) {i : Nat} (hi : i < 4) :
    c.sramTemplate[c.biasOffset + i]? = some (templateByte c (c.biasOffset + i)) := by
  obtain ⟨-, -, -, -, hbias, hlen⟩ := (configValid_iff c).1 hc
  have hlt : c.biasOffset + i < c.sramTemplate.length := by omega
  rw [templateByte, List.getD_eq_getElem _ _ hlt, List.getElem?_eq_getElem hlt]

/-! ### The bound-checked access (R175, R176) -/

theorem effect_rtcRd_inside (h : b.toNat + s.off.toNat < 4) :
    effect (.rtcRd x b d) s = (s.setDOut (s.rtc.read (b.toNat + s.off.toNat))).endData :=
  congrArg State.endData (bounded_inside h d _)

theorem effect_rtcWr_inside (h : b.toNat + s.off.toNat < 4) :
    effect (.rtcWr x b d) s = ((s.setRtc (s.rtc.write (b.toNat + s.off.toNat) d)).setDOut d).endData :=
  congrArg State.endData (bounded_inside h d _)

/-! ### A read in a transaction of its own (R176) -/

theorem decodeData_rtcRead_word (k : BitVec 2) (d : Byte) :
    decodeData (0x20000000#32 ||| k.setWidth 32) d = .rtcRd 0#6 k d := by
  have hword : ∀ k : BitVec 2, 0x20000000#32 ||| k.setWidth 32 = 0x200000#24 ++ 0#6 ++ k := by decide
  rw [hword k]
  exact decodeData_rtc_word rfl 0#6 k d

/-- The byte comes from the RTC as the transaction's own latch left it. -/
theorem run_rtcRead {rest : List BusOp} (hl : s.life = .constructed)
    (h : s.inbox = txn (0x20000000#32 ||| k.setWidth 32) (rd 1) ++ rest) :
    run 6 s = .next ((((s.setInbox rest).latchedAt (0x20000000#32 ||| k.setWidth 32)).setDOut
      ((rtcBytes (rtcValue s.cfg s.env.takeClock.1) s.rtc).read k.toNat)).endData) := by
  have hrun := run_oneByteTransaction hl h
  rw [decodeData_rtcRead_word, effect_rtcRd_inside (by exact k.isLt)] at hrun
  exact hrun

end Sys2Proof.Machine
end

section
/-! The statements of 43_rtc.md. -/

namespace Sys2Proof.Proofs

open Sys2Proof.Machine

/-- Settles O21: the four bytes are those of the refreshed value, whose bias is made of bytes the template has. -/
theorem rtcHoldsBiasedHostTime : Obligations.RtcHoldsBiasedHostTime := by
  intro s d hl hc
  have hread := be32_rtcBytes_read (rtcValue s.cfg s.env.takeClock.1) s.rtc
  refine ⟨_, _, _, _, _, exec_of_live nofun hl, sramTemplate_bias hc (i := 0) (by decide),
    sramTemplate_bias hc (i := 1) (by decide), sramTemplate_bias hc (i := 2) (by decide),
    sramTemplate_bias hc (i := 3) (by decide), ?_, fun _ hj => rtcBytes_read_of_four_le _ s.rtc hj⟩
  rw [effect_xferLatch_rtc, ← be32_toNat, ← be32_toNat, hread]
  exact rtcValue_toNat s.cfg s.env.takeClock.1

/-- Settles O55: each RTC holds its own refreshed value, and the value moves with the clock. -/
theorem rtcAdvancesWithTheHostClock : Obligations.RtcAdvancesWithTheHostClock := by
  intro s u d e T ts us hl hl' hcfg hs hu
  refine ⟨_, _, exec_of_live nofun hl, exec_of_live nofun hl', ?_⟩
  rw [effect_xferLatch_rtc, effect_xferLatch_rtc, be32_rtcBytes_read, be32_rtcBytes_read, hcfg,
    takeClock_scripted hs, takeClock_scripted hu]
  exact rtcValue_add s.cfg T 10

/-- Settles O56: the latch overwrites all four bytes before the data phase reads one. -/
theorem rtcWritesAreLostAtTheNextLatch : Obligations.RtcWritesAreLostAtTheNextLatch := by
  intro s k T ts rest hl hclock h
  have hrun := run_rtcRead hl h
  rw [takeClock_scripted hclock, rtcBytes_read_index] at hrun
  exact ⟨_, hrun, rfl, rfl, rfl⟩

/-- Settles O24: the operation is one bound-checked access, which returns the byte. -/
theorem rtcReadReturnsTheByte : Obligations.RtcReadReturnsTheByte := by
  intro s x b d hl idx
  have hexec := exec_of_live (i := .rtcRd x b d) nofun hl
  refine ⟨fun hin => ?_, fun hout => ?_⟩
  · exact hexec.trans (congrArg _ (effect_rtcRd_inside hin))
  · exact overruns_of_effect_bounded nofun hl rfl hout

/-- Settles O25: the operation is one bound-checked access, which writes the byte and returns it. -/
theorem rtcWriteStoresTheByte : Obligations.RtcWriteStoresTheByte := by
  intro s x b d hl idx
  have hexec := exec_of_live (i := .rtcWr x b d) nofun hl
  refine ⟨fun hin => ?_, fun hout => ?_⟩
  · exact ⟨_, hexec.trans (congrArg _ (effect_rtcWr_inside hin)),
      read_write_same s.rtc idx d, fun _ hj => read_write_other s.rtc d hj⟩
  · exact overruns_of_effect_bounded nofun hl rfl hout

end Sys2Proof.Proofs
end

section
/-! Lemmas for the statements of 44_rom.md: the warnings of the build, what no operation but CONSTRUCT changes, the
ROM's two bound-checked accesses, and the boot image read byte by byte from a CONSTRUCT on. -/

namespace Sys2Proof.Machine

variable {s : State} {c : Config} {i : BitVec 23} {x : BitVec 6} {d : Byte} {base : Nat}

/-! ### The build (R190, R191) -/

/-- A font warns exactly when it is not placed. -/
theorem fontPlace_warns (n : Nat) (k : Font) (o : Nat) (r : LoadAnswer) (m : Memory) :
    (fontPlace n k o r m).2 = if fontFails n o r then [.assetLoad k] else [] := by
  cases r with
  | fail => rfl
  | ok blob =>
    obtain hpast | hfits := Nat.lt_or_ge n (o + blob.length)
    · simp [fontPlace, fontFails, hpast, Nat.not_le.2 hpast]
    · simp [fontPlace, fontFails, hfits, Nat.not_lt.2 hfits]

/-- The build's warnings are font A's and then font B's (60_exceptions.md R234). -/
theorem romBuild_warns (c : Config) (fontA fontB : LoadAnswer) :
    (romBuild c fontA fontB).2 =
      (if fontFails c.romSize c.fontAOffset fontA then [Warning.assetLoad .A] else []) ++
      (if fontFails c.romSize c.fontBOffset fontB then [Warning.assetLoad .B] else []) :=
  congrArg₂ (· ++ ·) (fontPlace_warns ..) (fontPlace_warns ..)

/-- A valid configuration's version string has each of its 46 bytes in the image, below both fonts. -/
theorem versionString_getElem_romBuild (hc : configValid c = true) (fontA fontB : LoadAnswer) {k : Nat} (hk : k < 46) :
    c.versionString[k]? = some ((romBuild c fontA fontB).1.read k) := by
  obtain ⟨-, hlen, -⟩ := (configValid_iff c).1 hc
  simp [romBuild_read_version hc fontA fontB hk, hlen, hk]

/-! ### What is fixed for life (R193) -/

/-- A bound-checked access leaves the ROM and the parameters when the access itself does. -/
theorem bounded_rom_cfg {size : Nat} {f : Nat → State → State}
    (hf : ∀ k, (f k s).rom = s.rom ∧ (f k s).cfg = s.cfg) :
    (s.bounded size base d f).rom = s.rom ∧ (s.bounded size base d f).cfg = s.cfg := by
  obtain ⟨-, hb⟩ | ⟨-, hb⟩ := bounded_cases s size base d f <;> rw [hb]
  · exact hf _
  · exact ⟨rfl, rfl⟩

/-- No update of a live device reaches the ROM or a parameter. -/
theorem effect_rom_cfg (i : Instr) (s : State) : (effect i s).rom = s.rom ∧ (effect i s).cfg = s.cfg := by
  cases i with
  | csReset | csActive | xferAddr | xferLatch | uartRd | illRd | illWr | construct => exact ⟨rfl, rfl⟩
  | romRd | romWr | rtcRd | rtcWr | sramRd | sramWr => exact bounded_rom_cfg fun _ => ⟨rfl, rfl⟩
  | uartWr _ d =>
    simp only [effect]
    rw [uartPut_frame]
    exact ⟨rfl, rfl⟩
  | teardown =>
    obtain ⟨-, he⟩ | ⟨-, he⟩ := sramSave_cases s <;> simp [effect, he]

/-! ### The bound-checked access (R194, R195) -/

theorem effect_romRd_inside (h : romBase s.cfg i + s.off.toNat < s.cfg.romSize) :
    effect (.romRd i x d) s = (s.setDOut (s.rom.read (romBase s.cfg i + s.off.toNat))).endData :=
  congrArg State.endData (bounded_inside h d _)

theorem effect_romWr_inside (h : romBase s.cfg i + s.off.toNat < s.cfg.romSize) :
    effect (.romWr i x d) s = (s.setDOut d).endData :=
  congrArg State.endData (bounded_inside h d _)

/-! ### Reading the boot image (R196) -/

/-- A step that runs CONSTRUCT with a valid configuration the host has supplied. -/
theorem step_construct {cs : List Config} {rest : List BusOp} (hc : configValid c = true)
    (hcfg : s.env.configs = c :: cs) (h : s.inbox = .construct :: rest) :
    step s = .next ((s.setInbox rest).construct c { s.env with configs := cs }) := by
  rw [step_issued h, decodeOp, exec_construct_next_iff, setInbox_env, takeConfig_scripted hcfg]
  exact ⟨hc, rfl⟩

/-- The base of the boot image is 0 under every ROM_MASK. -/
theorem decodeAddress_zero (m : Nat) : decodeAddress m 0#32 = (.rom, 0) := by
  simp [decodeAddress_of_rom (a := 0#32) rfl m]

/-- A data-phase read inside the ROM returns the byte at `base + off`. -/
theorem step_romRead {rest : List BusOp} (hl : s.life = .constructed) (hc : configValid s.cfg = true) (hp : 4 ≤ s.pos)
    (ha : decodeAddress (romMask s.cfg) s.addr = (.rom, base)) (hdir : s.dir = false)
    (hin : base + s.off.toNat < s.cfg.romSize) (h : s.inbox = .xfer d :: rest) :
    step s = .next (((s.setInbox rest).setDOut (s.rom.read (base + s.off.toNat))).endData) := by
  rw [step_dataByte_inside hl hc hp h ha hin, hdir]
  rfl

/-- Inside a ROM of a valid size the offset does not wrap. -/
theorem off_succ_toNat (hc : configValid s.cfg = true) (hin : s.off.toNat < s.cfg.romSize) :
    (s.off + 1).toNat = s.off.toNat + 1 := by
  have hsize := (romSize_bounds hc).2
  rw [BitVec.toNat_add]
  exact Nat.mod_eq_of_lt (show s.off.toNat + 1 < 2 ^ 32 by omega)

/-- Reads in a row that stay inside the ROM return its bytes in order and never fault: the last of `n + 1` returns byte
`n` from where they began. -/
theorem run_romReads (n : Nat) {j : Nat} {rest : List BusOp} (hl : s.life = .constructed)
    (hc : configValid s.cfg = true) (hp : 4 ≤ s.pos) (ha : decodeAddress (romMask s.cfg) s.addr = (.rom, base))
    (hdir : s.dir = false) (hlast : base + s.off.toNat + n = j) (hin : j < s.cfg.romSize)
    (h : s.inbox = rd (n + 1) ++ rest) :
    ∃ t, run (n + 1) s = .next t ∧ t.dOut = some (s.rom.read j) ∧ t.ovf = s.ovf ∧ t.inbox = rest := by
  induction n generalizing s with
  | zero =>
    subst hlast
    exact ⟨_, run_succ_next (step_romRead hl hc hp ha hdir hin h) 0, rfl, rfl, rfl⟩
  | succ n ih =>
    have hstep := step_romRead (rest := rd (n + 1) ++ rest) hl hc hp ha hdir (by omega) h
    have hnext : base + (s.off + 1).toNat + n = j := by rw [off_succ_toNat hc (by omega)]; omega
    rw [run_succ_next hstep]
    exact ih hl hc (Nat.le_succ_of_le hp) ha hdir hnext hin rfl

/-- A transaction at address 0 reads the boot image from its first byte on. -/
theorem run_bootImage (k : Nat) {rest : List BusOp} (hl : s.life = .constructed) (hc : configValid s.cfg = true)
    (hk : k < s.cfg.romSize) (h : s.inbox = txn 0x00000000#32 (rd (k + 1)) ++ rest) :
    ∃ t, run (k + 6) s = .next t ∧ t.dOut = some (s.rom.read k) ∧ t.ovf = s.ovf ∧ t.inbox = rest := by
  have haddr := run_addressPhase (rest := rd (k + 1) ++ rest) hl h
  rw [be32_bytes] at haddr
  rw [show k + 6 = 5 + (k + 1) by omega, run_add_next haddr]
  exact run_romReads k hl hc (Nat.le_refl 4) (decodeAddress_zero _) (show isWrite 0#32 = false by decide)
    (Nat.zero_add k) hk rfl

end Sys2Proof.Machine
end

section
/-! The statements of 44_rom.md. -/

namespace Sys2Proof.Proofs

open Sys2Proof.Machine

/-- Settles O2: each byte is the last placement that covers it, and each font warns when it is not placed. -/
theorem romImageByteByByte : Obligations.RomImageByteByByte :=
  fun c fontA fontB _ => ⟨romBuild_read c fontA fontB, romBuild_warns c fontA fontB⟩

/-- Settles O40: an operation other than CONSTRUCT is an update of a live device, and none reaches either. -/
theorem romAndParametersAreFixedForLife : Obligations.RomAndParametersAreFixedForLife := by
  intro i s t hi h
  obtain ⟨-, rfl⟩ := (exec_next_iff hi).1 h
  exact effect_rom_cfg i s

/-- Settles O52: CONSTRUCT builds the image and clears the fault, and reading the boot image returns its bytes, which up
to index 45 are the version string's. -/
theorem versionStringReadsBackAfterConstruction : Obligations.VersionStringReadsBackAfterConstruction := by
  intro s c cs k rest hc hk hcfg h
  have hsize := (romSize_bounds hc).1
  have hstep := step_construct hc hcfg h
  obtain ⟨t, hrun, hout, hovf, hrest⟩ := run_bootImage (rest := rest) k rfl hc (show k < c.romSize by omega)
    (s := (s.setInbox (txn 0x00000000#32 (rd (k + 1)) ++ rest)).construct c { s.env with configs := cs }) rfl
  exact ⟨t, _, (run_succ_next hstep (k + 6)).trans hrun,
    versionString_getElem_romBuild hc _ _ (Nat.lt_succ_of_le hk), hout, hovf, hrest⟩

/-- Settles O22: the operation is one bound-checked access, which returns the byte. -/
theorem romReadReturnsTheByte : Obligations.RomReadReturnsTheByte := by
  intro s i x d hl idx
  have hexec := exec_of_live (i := .romRd i x d) nofun hl
  refine ⟨fun hin => ?_, fun hout => ?_⟩
  · exact hexec.trans (congrArg _ (effect_romRd_inside hin))
  · exact overruns_of_effect_bounded nofun hl rfl hout

/-- Settles O23: the operation is one bound-checked access, which reaches no byte of the ROM. -/
theorem romWriteIsIgnored : Obligations.RomWriteIsIgnored := by
  intro s i x d hl idx
  have hexec := exec_of_live (i := .romWr i x d) nofun hl
  refine ⟨fun hin => ?_, fun hout => ?_⟩
  · exact hexec.trans (congrArg _ (effect_romWr_inside hin))
  · exact overruns_of_effect_bounded nofun hl rfl hout

end Sys2Proof.Proofs
end

section
/-! Lemmas for the statements of 45_uart.md: what a UART write returns, the data-phase step that makes one, and what a
line of bytes leaves in the buffer. -/

namespace Sys2Proof.Machine

variable {s : State} {x : BitVec 8} {d : Byte} {line : List Byte} {rest : List BusOp}

/-! ### One write (R211) -/

theorem effect_uartWr_terminator :
    effect (.uartWr x 0x0D#8) s =
      { s with log := s.log ++ [s.ubuf], ubuf := [], dOut := some 0x0D#8, off := s.off + 1, pos := s.pos + 1 } := by
  rw [effect, uartPut_terminator]
  rfl

theorem effect_uartWr_full (hd : d ≠ 0x0D#8) (h : s.ubuf.length + 1 = 256) :
    effect (.uartWr x d) s =
      { s with log := s.log ++ [s.ubuf ++ [d]], ubuf := [], dOut := some d, off := s.off + 1, pos := s.pos + 1 } := by
  rw [effect, uartPut_full hd h]
  rfl

theorem effect_uartWr_room (hd : d ≠ 0x0D#8) (h : s.ubuf.length + 1 ≠ 256) :
    effect (.uartWr x d) s =
      { s with ubuf := s.ubuf ++ [d], dOut := some d, off := s.off + 1, pos := s.pos + 1 } := by
  rw [effect, uartPut_room hd h]
  rfl

/-! ### A line (R211, R212) -/

/-- A data-phase step under a latched UART write word is that write. -/
theorem step_uartWrite (hl : s.life = .constructed) (hp : 4 ≤ s.pos) (hr : regionOf s.addr = .uart)
    (hdir : s.dir = true) (h : s.inbox = .xfer d :: rest) :
    step s = .next (effect (.uartWr (s.addr.extractLsb' 0 8) d) (s.setInbox rest)) := by
  rw [step_dataByte hl hp h, decodeData_of_uart hr, if_pos (show isWrite s.addr = true from hdir)]

/-- Below the capacity the step buffers its byte. -/
theorem step_uartWrite_room (hl : s.life = .constructed) (hp : 4 ≤ s.pos) (hr : regionOf s.addr = .uart)
    (hdir : s.dir = true) (hd : d ≠ 0x0D#8) (hroom : s.ubuf.length + 1 ≠ 256) (h : s.inbox = .xfer d :: rest) :
    step s = .next { s with
      pos := s.pos + 1, off := s.off + 1, dOut := some d, ubuf := s.ubuf ++ [d], inbox := rest } :=
  (step_uartWrite hl hp hr hdir h).trans (congrArg _ (effect_uartWr_room (s := s.setInbox rest) hd hroom))

/-- Bytes without the terminator that stay below the capacity are buffered in order, and nothing is emitted. -/
theorem run_uartBuffers (line : List Byte) (hl : s.life = .constructed) (hp : 4 ≤ s.pos)
    (hr : regionOf s.addr = .uart) (hdir : s.dir = true) (hline : 0x0D#8 ∉ line)
    (hroom : s.ubuf.length + line.length ≤ 255) (h : s.inbox = wr line ++ rest) :
    ∃ pos off dOut, 4 ≤ pos ∧ run line.length s = .next { s with
      pos := pos, off := off, dOut := dOut, ubuf := s.ubuf ++ line, inbox := rest } := by
  induction line generalizing s with
  | nil =>
    refine ⟨s.pos, s.off, s.dOut, hp, ?_⟩
    rw [List.append_nil, ← show s.inbox = rest from h]
    rfl
  | cons d ds ih =>
    obtain ⟨hd, hds⟩ : 0x0D#8 ≠ d ∧ 0x0D#8 ∉ ds := by simpa using hline
    rw [List.length_cons] at hroom
    have hshort : (s.ubuf ++ [d]).length + ds.length ≤ 255 := by rw [List.length_append, List.length_singleton]; omega
    have hstep := step_uartWrite_room hl hp hr hdir hd.symm (by omega) h
    obtain ⟨pos, off, dOut, hpos, hrun⟩ := ih (s := { s with
      pos := s.pos + 1, off := s.off + 1, dOut := some d, ubuf := s.ubuf ++ [d], inbox := wr ds ++ rest })
      hl (Nat.le_succ_of_le hp) hr hdir hds hshort rfl
    refine ⟨pos, off, dOut, hpos, ?_⟩
    rw [List.append_cons]
    exact (run_succ_next hstep ds.length).trans hrun

/-- One byte more, of any value, is written to the buffer that such bytes leave. -/
theorem run_uartBuffers_write (hl : s.life = .constructed) (hp : 4 ≤ s.pos) (hr : regionOf s.addr = .uart)
    (hdir : s.dir = true) (hline : 0x0D#8 ∉ line) (hroom : s.ubuf.length + line.length ≤ 255)
    (h : s.inbox = wr (line ++ [d]) ++ rest) :
    ∃ pos off dOut, run (line.length + 1) s = .next (effect (.uartWr (s.addr.extractLsb' 0 8) d) { s with
      pos := pos, off := off, dOut := dOut, ubuf := s.ubuf ++ line, inbox := rest }) := by
  have hsplit : s.inbox = wr line ++ (.xfer d :: rest) := by rw [h]; simp [wr]
  obtain ⟨pos, off, dOut, hpos, hrun⟩ := run_uartBuffers line hl hp hr hdir hline hroom hsplit
  refine ⟨pos, off, dOut, (run_add_next hrun 1).trans (run_succ_next ?_ 0)⟩
  exact step_uartWrite hl hpos hr hdir rfl

end Sys2Proof.Machine
end

section
/-! The statements of 45_uart.md. -/

namespace Sys2Proof.Proofs

open Sys2Proof.Machine

/-- Settles O53: the bytes are buffered, and the terminator emits the buffer as the one record. -/
theorem uartLineBecomesOneRecord : Obligations.UartLineBecomesOneRecord := by
  intro line s rest hl hp hr hdir hline hroom h
  obtain ⟨pos, off, dOut, hrun⟩ := run_uartBuffers_write hl hp hr hdir hline hroom h
  rw [effect_uartWr_terminator] at hrun
  exact ⟨_, hrun, rfl, rfl, rfl, rfl, rfl, rfl, rfl, rfl, rfl⟩

/-- Settles O54: the first 255 bytes are buffered, and the last one fills the buffer. -/
theorem uartFullBufferBecomesOneRecord : Obligations.UartFullBufferBecomesOneRecord := by
  intro line s rest hl hp hr hdir hline hlen hempty h
  obtain rfl | ⟨init, d, rfl⟩ := List.eq_nil_or_concat' line
  · cases hlen
  · obtain ⟨hinit, hd⟩ : 0x0D#8 ∉ init ∧ 0x0D#8 ≠ d := by simpa using hline
    rw [List.length_append] at hlen
    have hcount : init.length = 255 := Nat.succ.inj hlen
    have hroom : s.ubuf.length + init.length ≤ 255 := by rw [hempty, hcount]; decide
    obtain ⟨pos, off, dOut, hrun⟩ := run_uartBuffers_write hl hp hr hdir hinit hroom h
    rw [hcount, hempty, effect_uartWr_full hd.symm hlen] at hrun
    exact ⟨_, hrun, rfl, rfl, rfl, rfl⟩

/-- Settles O28: the read is a guarded return of the status byte, with no bound check. -/
theorem uartReadReturnsStatus : Obligations.UartReadReturnsStatus :=
  fun _ _ _ hl => exec_of_live nofun hl

/-- Settles O29: the operation is a guarded write, whose three outcomes are the three cases. -/
theorem uartWriteAppendsAndFlushes : Obligations.UartWriteAppendsAndFlushes := by
  intro s x d hl
  have hexec := exec_of_live (i := .uartWr x d) nofun hl
  refine ⟨fun hd => ?_, fun hd hfull => ?_, fun hd hroom => ?_⟩
  · subst hd
    exact hexec.trans (congrArg _ effect_uartWr_terminator)
  · exact hexec.trans (congrArg _ (effect_uartWr_full hd (List.length_append.symm.trans hfull)))
  · exact hexec.trans (congrArg _ (effect_uartWr_room hd (List.length_append.symm.trans_ne hroom)))

end Sys2Proof.Proofs
end

section
/-! Lemmas for the statements of 60_exceptions.md: the byte that every transfer returns, and that no operation reads
what has been emitted. -/

namespace Sys2Proof.Machine

variable {s : State}

/-! ### The byte that a transfer returns (R231) -/

/-- A bound-checked access returns a byte when the access itself does: an overrun returns one too. -/
theorem bounded_returns {size base : Nat} {d : Byte} {f : Nat → State → State}
    (hf : ∀ k, ∃ b, (f k s).dOut = some b) : ∃ b, (s.bounded size base d f).dOut = some b := by
  obtain ⟨-, hb⟩ | ⟨-, hb⟩ := bounded_cases s size base d f <;> rw [hb]
  · exact hf _
  · exact ⟨d, rfl⟩

/-- Every data-phase byte returns a byte, in every region and direction. -/
theorem effect_decodeData_returns (a : Word) (d : Byte) (s : State) :
    ∃ b, (effect (decodeData a d) s).dOut = some b := by
  unfold decodeData
  cases regionOf a with
  | rom | rtc | sram => cases isWrite a <;> exact bounded_returns fun _ => ⟨_, rfl⟩
  | uart | illegal => cases isWrite a <;> exact ⟨_, rfl⟩

/-- An XFER of a live device completes: it takes its own request, returns a byte and counts itself. -/
theorem step_transfer_completes {d : Byte} {rest : List BusOp} (hl : s.life = .constructed)
    (h : s.inbox = .xfer d :: rest) :
    ∃ t b, step s = .next t ∧ t.dOut = some b ∧ t.pos = s.pos + 1 ∧ t.inbox = rest ∧ t.life = .constructed := by
  obtain hlt | heq | hge : s.pos < 3 ∨ s.pos = 3 ∨ 4 ≤ s.pos := by omega
  · exact ⟨_, idleByte, step_addressByte hl hlt h, rfl, rfl, rfl, hl⟩
  · exact ⟨_, idleByte, step_latch hl heq h, rfl, rfl, rfl, hl⟩
  · have hu := effect_decodeData_update s.addr d (s.setInbox rest)
    obtain ⟨-, -, hlife, -, -, hinbox⟩ := hu.frame
    obtain ⟨hpos, -⟩ := hu.pos_cfg_rom
    obtain ⟨b, hb⟩ := effect_decodeData_returns s.addr d (s.setInbox rest)
    exact ⟨_, b, step_dataByte hl hge h, hb, hpos, hinbox, hlife.trans hl⟩

/-! ### The channels are never read (R237) -/

theorem emittedBefore_withoutChannels (s : State) : s.emittedBefore s.withoutChannels = s := by
  simp [State.emittedBefore, State.withoutChannels]

/-- `F` does not read the channels: with `u`'s events already emitted it does the same, and appends to them. -/
def ChannelBlind (F : State → State) : Prop := ∀ u s : State, F (u.emittedBefore s) = u.emittedBefore (F s)

theorem emitLog_channelBlind (record : List Byte) : ChannelBlind fun s => s.emitLog record := by
  intro u s
  simp [State.emitLog, State.emittedBefore]

theorem emitWarn_channelBlind (events : List Warning) : ChannelBlind fun s => s.emitWarn events := by
  intro u s
  simp [State.emitWarn, State.emittedBefore]

/-- Which diagnostic is emitted may depend on the state, but not on its channels. -/
theorem emitDiag_channelBlind (event : Diagnostic) : ChannelBlind fun s => s.emitDiag event := by
  intro u s
  simp [State.emitDiag, State.emittedBefore]

theorem latch_channelBlind : ChannelBlind State.latch :=
  fun u s => emitDiag_channelBlind _ u ((s.setEnv s.env.takeClock.2).rtcRefresh s.env.takeClock.1)

theorem passThrough_channelBlind (d : Byte) : ChannelBlind fun s => s.passThrough d :=
  fun u s => emitDiag_channelBlind _ u (s.setDOut d)

theorem raiseOverrun_channelBlind (d : Byte) : ChannelBlind fun s => s.raiseOverrun d :=
  fun u s => congrArg (State.setDOut · d) (emitWarn_channelBlind _ u s.setOvf)

theorem bounded_channelBlind (size base : Nat) (d : Byte) {f : Nat → State → State} (hf : ∀ k, ChannelBlind (f k)) :
    ChannelBlind fun s => s.bounded size base d f := by
  intro u s
  obtain ⟨hk, hb⟩ | ⟨hk, hb⟩ := bounded_cases s size base d f
  · simp only [hb, bounded_inside (s := u.emittedBefore s) hk]
    exact hf _ u s
  · simp only [hb, bounded_outside (s := u.emittedBefore s) hk]
    exact raiseOverrun_channelBlind d u s

theorem uartPut_channelBlind (d : Byte) : ChannelBlind fun s => s.uartPut d := by
  intro u s
  obtain ⟨rfl, he⟩ | ⟨hd, hfull, he⟩ | ⟨hd, hroom, he⟩ := uartPut_cases s d <;> simp only [he]
  · exact (uartPut_terminator _).trans (congrArg (State.setUbuf · []) (emitLog_channelBlind s.ubuf u s))
  · exact (uartPut_full (s := u.emittedBefore s) hd hfull).trans
      (congrArg (State.setUbuf · []) (emitLog_channelBlind (s.ubuf ++ [d]) u s))
  · exact uartPut_room hd hroom

theorem sramSave_channelBlind : ChannelBlind State.sramSave := by
  intro u s
  have henv : (u.emittedBefore s).env = s.env := rfl
  simp only [State.sramSave, henv]
  cases s.env.takeSramSave.1 with
  | ok => rfl
  | fail => exact emitWarn_channelBlind [.persistenceWriteFailure] u (s.setEnv s.env.takeSramSave.2)

theorem construct_channelBlind (c : Config) (e : Environment) : ChannelBlind fun s => s.construct c e := by
  intro u s
  simp [State.construct, State.emittedBefore]

theorem effect_channelBlind (i : Instr) : ChannelBlind (effect i) := by
  intro u s
  cases i with
  | csReset | csActive | xferAddr | uartRd | construct => rfl
  | xferLatch d => exact congrArg State.advance (latch_channelBlind u (s.addressByte d))
  | romRd | romWr | rtcRd | rtcWr | sramRd | sramWr =>
    exact congrArg State.endData (bounded_channelBlind _ _ _ (fun _ _ _ => rfl) u s)
  | uartWr _ d => exact congrArg (fun t => (State.setDOut t d).endData) (uartPut_channelBlind d u s)
  | illRd _ d | illWr _ d => exact congrArg State.endData (passThrough_channelBlind d u s)
  | teardown => exact congrArg (fun t => (State.setUbuf t []).setLife .tornDown) (sramSave_channelBlind u s)

theorem exec_emittedBefore (i : Instr) (u s : State) :
    exec i (u.emittedBefore s) = mapNext u.emittedBefore (exec i s) := by
  by_cases hi : i = .construct
  · subst hi
    have henv : (u.emittedBefore s).env = s.env := rfl
    simp only [exec, execConstruct, henv]
    split
    · exact congrArg Host.Outcome.next (construct_channelBlind _ _ u s)
    · rfl
  · by_cases hl : s.life = .constructed
    · rw [exec_of_live hi hl, exec_of_live hi (s := u.emittedBefore s) hl]
      exact congrArg Host.Outcome.next (effect_channelBlind i u s)
    · rw [exec_of_not_live hi hl, exec_of_not_live hi (s := u.emittedBefore s) hl]
      rfl

theorem step_emittedBefore (u s : State) : step (u.emittedBefore s) = mapNext u.emittedBefore (step s) := by
  cases hi : s.inbox with
  | nil =>
    rw [step_idle hi, step_idle (s := u.emittedBefore s) hi]
    rfl
  | cons op rest =>
    rw [step_issued hi, step_issued (s := u.emittedBefore s) hi]
    exact exec_emittedBefore _ u (s.setInbox rest)

/-- A run does not read the channels: earlier events only stand before its own. -/
theorem run_emittedBefore (n : Nat) (u s : State) : run n (u.emittedBefore s) = mapNext u.emittedBefore (run n s) := by
  induction n generalizing s with
  | zero => rfl
  | succ n ih =>
    have h := step_emittedBefore u s
    cases hs : step s with
    | next t =>
      rw [hs] at h
      rw [run_succ_next hs, run_succ_next h, ih t]
    | fault f => exact nomatch f
    | refused r =>
      rw [hs] at h
      rw [run_succ_refused hs, run_succ_refused h]
      rfl

end Sys2Proof.Machine
end

section
/-! The statements of 60_exceptions.md. -/

namespace Sys2Proof.Proofs

open Sys2Proof.Machine

/-- Settles O4: CONSTRUCT appends the ROM's warnings and then the SRAM's, and each stands for its failed load. -/
theorem constructWarnsInOrder : Obligations.ConstructWarnsInOrder := by
  intro s t c e hce h
  obtain ⟨-, rfl⟩ := exec_construct_next_iff.1 h
  rw [hce, ← romBuild_warns, ← sramBuild_warns c]
  rfl

/-- Settles O37: there is no fault to answer, and a transfer completes in each phase. -/
theorem everyTransferCompletes : Obligations.EveryTransferCompletes :=
  ⟨nofun, fun _ _ _ => step_transfer_completes⟩

/-- Settles O44: the state is its own channels put before itself without them, and a run keeps them in front. -/
theorem blockNeverReadsTheChannels : Obligations.BlockNeverReadsTheChannels := by
  intro n s
  rw [← run_emittedBefore, emittedBefore_withoutChannels]

/-- Settles O39: no request but CONSTRUCT decodes to CONSTRUCT, and every other operation of a live device is its
update. -/
theorem liveOperationsAlwaysStep : Obligations.LiveOperationsAlwaysStep := by
  intro s op rest hl h hop
  exact ⟨_, (step_issued h).trans (exec_of_live (decodeOp_ne_construct _ _ hop) hl)⟩

end Sys2Proof.Proofs
end

section
/-! Lemmas for the statements of 70_reset_and_hazards.md: the configuration check in the words of R261, what a new device
takes from the host, and the two outcomes of TEARDOWN. -/

namespace Sys2Proof.Machine

variable {s : State} {c : Config}

/-! ### The configuration check (R261) -/

/-- CONSTRUCT's one refusal is the failed check. -/
theorem exec_construct_refused_iff :
    exec .construct s = .refused .badConfiguration ↔ ¬ configValid s.env.takeConfig.1 = true := by
  simp only [exec, execConstruct]
  split <;> simp [*]

/-- The sizes that the check lists are the powers of two within the bounds. -/
theorem romSize_listed_iff (n : Nat) : (∃ k, k < 18 ∧ n = 2 ^ (6 + k)) ↔ (∃ k, n = 2 ^ k) ∧ 64 ≤ n ∧ n ≤ 2 ^ 23 := by
  constructor
  · rintro ⟨k, hk, rfl⟩
    exact ⟨⟨6 + k, rfl⟩, Nat.pow_le_pow_right (n := 2) (i := 6) (by decide) (by omega),
      Nat.pow_le_pow_right (by decide) (by omega)⟩
  · rintro ⟨⟨k, rfl⟩, hlow, hhigh⟩
    have hk : 6 ≤ k := (Nat.pow_le_pow_iff_right (a := 2) (n := 6) (by decide)).1 hlow
    have hk' : k ≤ 23 := (Nat.pow_le_pow_iff_right (by decide)).1 hhigh
    exact ⟨k - 6, by omega, by rw [Nat.add_sub_cancel' hk]⟩

/-! ### A new device (R260, R263) -/

/-- What CONSTRUCT makes of the nine items and the configuration is the host's alone. -/
theorem construct_snapshot_cfg (s u : State) (c : Config) (e : Environment) :
    (u.construct c e).snapshot = (s.construct c e).snapshot ∧ (u.construct c e).cfg = (s.construct c e).cfg :=
  ⟨rfl, rfl⟩

/-- A font draw leaves the answers of the SRAM load to come. -/
theorem takeFontLoad_sramLoads (e : Environment) : e.takeFontLoad.2.sramLoads = e.sramLoads := by
  unfold Environment.takeFontLoad
  split <;> rfl

theorem takeSramLoad_scripted {e : Environment} {r : LoadAnswer} {rs : List LoadAnswer} (h : e.sramLoads = r :: rs) :
    e.takeSramLoad = (r, { e with sramLoads := rs }) := by
  simp [Environment.takeSramLoad, h]

/-- The new SRAM is built from the next answer of the SRAM load, whatever the fonts answer before it. -/
theorem construct_sram_scripted {e : Environment} {r : LoadAnswer} {rs : List LoadAnswer} (h : e.sramLoads = r :: rs)
    (s : State) (c : Config) : (s.construct c e).sram = (sramBuild c r).1 := by
  have hload : e.takeFontLoad.2.takeFontLoad.2.sramLoads = r :: rs := by simpa only [takeFontLoad_sramLoads] using h
  exact congrArg (fun p => (sramBuild c p.1).1) (takeSramLoad_scripted hload)

/-- An SRAM built from saved bytes reads as the SRAM they were saved from, but for the language byte (R243). -/
theorem sramBuild_read_saved (hc : configValid c = true) (m : Memory) {k : Nat} (hk : k < 64) :
    (sramBuild c (.ok (m.firstBytes 64))).1.read k = if k = 0x12 then c.lang else m.read k := by
  have hsource : sramSource c (.ok (m.firstBytes 64)) = m.firstBytes 64 := by
    simp [sramSource, List.take_of_length_le]
  apply Option.some.inj
  rw [sramBuild_read_source hc _ hk, hsource, firstBytes_getElem m hk]
  split <;> rfl

/-! ### TEARDOWN (R262) -/

theorem effect_teardown_of_ok (h : s.env.takeSramSave.1 = .ok) :
    effect .teardown s = { s with
      file := some (s.sram.firstBytes 64), ubuf := [], life := .tornDown, env := s.env.takeSramSave.2 } := by
  obtain ⟨-, he⟩ | ⟨hfail, -⟩ := sramSave_cases s
  · simp only [effect, he]
    rfl
  · exact absurd (h.symm.trans hfail) (by decide)

theorem effect_teardown_of_fail (h : s.env.takeSramSave.1 = .fail) :
    effect .teardown s = { s with
      warn := s.warn ++ [.persistenceWriteFailure], ubuf := [], life := .tornDown, env := s.env.takeSramSave.2 } := by
  obtain ⟨hok, -⟩ | ⟨-, he⟩ := sramSave_cases s
  · exact absurd (hok.symm.trans h) (by decide)
  · simp only [effect, he]
    rfl

end Sys2Proof.Machine
end

section
/-! The statements of 70_reset_and_hazards.md. -/

namespace Sys2Proof.Proofs

open Sys2Proof.Machine

/-- Settles O5: CONSTRUCT is refused exactly when the check fails, and the check's constraints are those of R261. -/
theorem constructRefusesExactlyBadConfigurations : Obligations.ConstructRefusesExactlyBadConfigurations := by
  intro s c e hce
  rw [exec_construct_refused_iff, hce, configValid_iff, romSize_listed_iff]
  by_cases hpow : ∃ k, c.romSize = 2 ^ k
  · simp only [hpow, true_and, not_true_eq_false, false_or]
    omega
  · simp only [hpow, false_and, not_false_eq_true, true_or]

/-- Settles O38: no request but CONSTRUCT decodes to CONSTRUCT, every other operation has the lifetime guard, and
CONSTRUCT sets each item from the host's answers. -/
theorem nothingRunsOutsideTheLifetime : Obligations.NothingRunsOutsideTheLifetime := by
  refine ⟨fun s op rest hl h hop => ?_, fun s u t v henv ht hv => ?_⟩
  · exact (step_issued h).trans (exec_of_not_live (decodeOp_ne_construct _ _ hop) hl)
  · obtain ⟨-, rfl⟩ := exec_construct_next_iff.1 ht
    obtain ⟨-, rfl⟩ := exec_construct_next_iff.1 hv
    rw [henv]
    exact construct_snapshot_cfg s u _ _

/-- Settles O57: the file holds all 64 bytes, and the build from them overwrites the one byte of the language. -/
theorem sramSurvivesThroughTheFile : Obligations.SramSurvivesThroughTheFile := by
  intro s c cs fonts loads hl hok hc
  refine ⟨_, _, exec_of_live nofun hl, effect_teardown_file_of_ok hok, _, exec_construct_next_iff.2 ⟨hc, rfl⟩,
    fun k hk => ?_⟩
  rw [construct_sram_scripted rfl]
  exact sramBuild_read_saved hc s.sram hk

/-- Settles O6: the build's own configuration is valid, and with nothing scripted its CONSTRUCT draws the free answers 0,
1 and 2. -/
theorem resetIsConstructFromNothing : Obligations.ResetIsConstructFromNothing :=
  exec_construct_next_iff.2 ⟨implementation_valid, rfl⟩

/-- Settles O31: the guard refuses, and on a live device the save has two outcomes. -/
theorem teardownSavesAndEndsTheLife : Obligations.TeardownSavesAndEndsTheLife := by
  intro s
  refine ⟨exec_of_not_live nofun, fun hl hok => ?_, fun hl hfail => ?_⟩
  · have hexec := exec_of_live (i := .teardown) nofun hl
    exact ⟨_, hexec.trans (congrArg _ (effect_teardown_of_ok hok)), firstBytes_length s.sram 64,
      fun _ => firstBytes_getElem s.sram⟩
  · have hexec := exec_of_live (i := .teardown) nofun hl
    exact hexec.trans (congrArg _ (effect_teardown_of_fail hfail))

end Sys2Proof.Proofs
end
